-- ==== Sys2Proof/Word.lean ====
section
/-! DEFINITION. The words of GONV-PPE: bytes and the 16-bit checksum word. All values are unsigned (R10); bit 0 is the
least significant bit (R9). -/

namespace Sys2Proof

/-- 8 bits (R12). -/
abbrev Byte := BitVec 8

/-- The checksum word (R9, R120). -/
abbrev Word16 := BitVec 16

end Sys2Proof
end

