-- ==== Sys2Proof/Config.lean ====
section
/-! DEFINITION. What an implementation fixes (R7, R8): the fixed constants, the parameters with their defaults, the OPEN
parameters, and the free values the outside world draws (R65, R66). An `opaque` constant here has no body: nothing can
evaluate it, so a claim holds whatever it is. -/

namespace Sys2Proof.Config

/-! ### Fixed rows of R7 -/

/-- `STX`, the start marker. -/
def stx : Byte := 0x7F
/-- `CRC_INIT`. -/
def crcInit : Word16 := 0xFFFF
/-- `CRC_POLY`. -/
def crcPoly : Word16 := 0x8005
/-- `MAX_FRAME`, bytes. -/
def maxFrame : Nat := 1024
/-- `LEN_MAX`, the largest length byte (R81). -/
def lenMax : Nat := 255
/-- `DATA_MAX`, the most data bytes of a command frame (R81). -/
def dataMax : Nat := 254
/-- `EXT_VER`, the first protocol version with the extended channel layout. -/
def extVer : Nat := 6
/-- `BUF_MAX`, capacity of every byte buffer. -/
def bufMax : Nat := 1024
/-- `POLL_PERIOD` in milliseconds; no rule of the model depends on it (R310). -/
def pollPeriod : Nat := 250
/-- `ST_OK`. -/
def stOk : Byte := 0xF0
/-- `UT_VALIDATOR`. -/
def utValidator : Byte := 0x00

end Sys2Proof.Config

namespace Sys2Proof

/-! ### The parameters -/

/-- `CHANNEL_LAYOUT` (R97): the version 6 channel data as 8-byte records or as three arrays. -/
inductive ChannelLayout where
  | interleaved
  | arrays
  deriving DecidableEq, Repr, Inhabited

/-- `UT_HOPPER`, `UT_PAYOUT`, `UT_COMBINED` (R7). -/
structure UnitCodes where
  hopper   : Byte
  payout   : Byte
  combined : Byte
  deriving DecidableEq, Repr, Inhabited

/-- R8: the unit-type codes and `UT_VALIDATOR` are pairwise distinct. -/
def UnitCodes.wf (u : UnitCodes) : Bool :=
  decide ([Config.utValidator, u.hopper, u.payout, u.combined].Nodup)

/-- The generic status codes other than `ST_OK` (R7, R91). -/
structure StatusCodes where
  fail                     : Byte
  commandNotKnown          : Byte
  wrongNoParameters        : Byte
  parameterOutOfRange      : Byte
  commandCannotBeProcessed : Byte
  softwareError            : Byte
  keyNotSet                : Byte
  deriving DecidableEq, Repr

/-- The eight codes in the order of `R_STATUS` 0 to 7 (R91). -/
def StatusCodes.list (c : StatusCodes) : List Byte :=
  [Config.stOk, c.fail, c.commandNotKnown, c.wrongNoParameters, c.parameterOutOfRange,
   c.commandCannotBeProcessed, c.softwareError, c.keyNotSet]

/-- R8: the eight codes are pairwise distinct bytes from 0xF0 to 0xFA. -/
def StatusCodes.wf (c : StatusCodes) : Bool :=
  decide (c.list.Nodup) && c.list.all fun b => decide (0xF0 ≤ b.toNat ∧ b.toNat ≤ 0xFA)

/-- The parameters of R7 that are not fixed. State carries them as a record no step writes (log 12), so a statement
about every state holds for every assignment. -/
structure Params where
  status  : StatusCodes
  units   : UnitCodes
  syncCmd : Byte
  pollCmd : Byte
  layout  : ChannelLayout
  /-- `EVENT_ARGLEN`: a total function from a code byte to 0..255, as 256 bytes. -/
  eventArgLen : Vector Byte 256
  deriving DecidableEq, Repr

/-- The constraints of R8. -/
def Params.wf (p : Params) : Bool :=
  p.status.wf && p.units.wf && decide (p.syncCmd ≠ p.pollCmd)

namespace Config

/-- PRESUMED: the default status codes of R7, from general knowledge (log 12). -/
def defaultStatus : StatusCodes where
  fail := 0xF8
  commandNotKnown := 0xF2
  wrongNoParameters := 0xF3
  parameterOutOfRange := 0xF4
  commandCannotBeProcessed := 0xF5
  softwareError := 0xF6
  keyNotSet := 0xFA

/-- PRESUMED: the default `SYNC_CMD` of R7 (log 12). -/
def defaultSyncCmd : Byte := 0x11
/-- PRESUMED: the default `POLL_CMD` of R7 (log 12). -/
def defaultPollCmd : Byte := 0x07

/-- OPEN (R7): the unit-type codes as an implementation supplies them. -/
opaque suppliedUnits : UnitCodes

/-- Any assignment R8 admits is `suppliedUnits` of some implementation; one that R8 forbids is replaced by one it
admits, so this ranges over exactly the legal assignments (log 12). -/
def units : UnitCodes :=
  if suppliedUnits.wf then suppliedUnits else { hopper := 1, payout := 2, combined := 3 }

/-- OPEN (R7, R97). -/
opaque channelLayout : ChannelLayout
/-- OPEN (R7, R247). -/
opaque eventArgLen : Vector Byte 256

/-- The parameters a machine has after reset: the defaults of R7, and the OPEN ones free. -/
def params : Params where
  status := defaultStatus
  units := units
  syncCmd := defaultSyncCmd
  pollCmd := defaultPollCmd
  layout := channelLayout
  eventArgLen := eventArgLen

/-- `CFG_PORT` as supplied at construction: opaque to the engine (R30). -/
opaque cfgPort : Nat
/-- `CFG_BAUD` as supplied at construction: opaque to the engine (R30). -/
opaque cfgBaud : Nat
/-- `CFG_ADDR` as supplied at construction: 7 bits (R31). -/
opaque cfgAddr : BitVec 7
/-- `CFG_TIMEOUT` as supplied at construction: opaque to the engine (R30). -/
opaque cfgTimeout : Nat

end Config

/-! ### What the outside world decides -/

/-- The answers to `TWrite` (R63). -/
inductive WriteAnswer where
  | wOk (count : Nat)
  | wErr
  deriving DecidableEq, Repr, Inhabited

/-- The answers to `TRead` (R64). -/
inductive ReadAnswer where
  | rOk (bytes : List Byte)
  | rErr
  deriving DecidableEq, Repr, Inhabited

/-- What the transport sees of one call: the bytes it was given and the answer it gave (R62). -/
inductive PortCall where
  | write (bytes : List Byte) (ans : WriteAnswer)
  | read (ans : ReadAnswer)
  deriving DecidableEq, Repr

/-- Who takes the next step (R20, R66): the host, the poller, or the surrounding software opening or closing the
transport (R32, R59). -/
inductive Turn where
  | host
  | poller
  | setConnected (isOpen : Bool)
  deriving DecidableEq, Repr, Inhabited

namespace Config

/-- Free: the transport's answer to a `TWrite` of the given bytes, after the given earlier calls (R62, R65), at the
`n`th draw. -/
opaque freeWrite : List PortCall → List Byte → Nat → WriteAnswer
/-- Free: the transport's answer to a `TRead` after the given earlier calls (R62, R65), at the `n`th draw. -/
opaque freeRead : List PortCall → Nat → ReadAnswer
/-- Free: whose turn it is after the given earlier calls (R66), at the `n`th draw. -/
opaque freeTurn : List PortCall → Nat → Turn

end Config

end Sys2Proof
end

