-- ==== Sys2Proof/Syntax.lean ====
section
/-! DEFINITION. The operations of the command port (R100) and the operand registers that select and feed them (R26).
A byte string stands for a buffer with its length register (R12, log 2). -/

namespace Sys2Proof

/-- The operand registers of one command port (R26). `a` is `A = ABUF[0..A_LEN-1]`; `A_LEN` is its length. -/
structure OperandRegs where
  op      : BitVec 4
  seqAddr : Byte
  cmd     : Byte
  ver     : Byte
  a       : List Byte
  deriving DecidableEq, Repr

/-- `A_LEN` (R26). -/
def OperandRegs.aLen (r : OperandRegs) : Nat := r.a.length

/-- One operation with the operands it reads: a constructor per row of spec/opcode_table.json. -/
inductive Instr where
  /-- `CRC16` (R123). -/
  | crc16 (a : List Byte)
  /-- `ENCODE` (R131). -/
  | encode (seqAddr cmd : Byte) (data : List Byte)
  /-- `DECODE` (R140). -/
  | decode (raw : List Byte)
  /-- `SEQ_NEXT` (R160). -/
  | seqNext
  /-- `SEQ_RESET` (R162). -/
  | seqReset
  /-- `SEND` of an ordinary command (R170). -/
  | send (cmd : Byte) (data : List Byte)
  /-- `SYNC`: `SEND` with `A_CMD = SYNC_CMD` (R105, R174). -/
  | sync (data : List Byte)
  /-- `DEC_IDENT` (R200). -/
  | decIdent (p : List Byte)
  /-- `DEC_CHAN` (R210). -/
  | decChan (ver : Byte) (p : List Byte)
  /-- `DEC_SETUP` (R220). -/
  | decSetup (p : List Byte)
  /-- `POLL_START` (R240). -/
  | pollStart
  /-- `POLL_STOP` (R241). -/
  | pollStop
  deriving DecidableEq, Repr

end Sys2Proof
end

