-- ==== Sys2Proof/WellFormed.lean ====
section
/-! DEFINITION. Which terms of Instr the port can express (R26, R101). -/

namespace Sys2Proof

/-- A byte string that a buffer of `BUF_MAX` cells holds (R12, R101). -/
def fitsBuffer (a : List Byte) : Bool := decide (a.length ≤ Config.bufMax)

/-- Well-formed on a machine whose synchronization command is `syncCmd`: every operand string fits its buffer, and the
row `SEND` of the table has `A_CMD` other than `SYNC_CMD` (the row `SYNC` has that one). -/
def Instr.wellFormed (syncCmd : Byte) : Instr → Bool
  | .crc16 a => fitsBuffer a
  | .encode _ _ data => fitsBuffer data
  | .decode raw => fitsBuffer raw
  | .seqNext => true
  | .seqReset => true
  | .send cmd data => decide (cmd ≠ syncCmd) && fitsBuffer data
  | .sync data => fitsBuffer data
  | .decIdent p => fitsBuffer p
  | .decChan _ p => fitsBuffer p
  | .decSetup p => fitsBuffer p
  | .pollStart => true
  | .pollStop => true

end Sys2Proof
end

