-- ==== Sys2Proof/Decode.lean ====
section
/-! DEFINITION. From operand registers to the operation they start (R100, R101), and back. -/

namespace Sys2Proof

/-- Why the operand registers start no operation. -/
inductive DecodeError where
  /-- The code selects no operation (R101). -/
  | illegalOp
  /-- `A_LEN` greater than `BUF_MAX`: not expressible on the port (R101, U16). -/
  | operandTooLong
  deriving DecidableEq, Repr

/-- The operation `i` if the operand string `a` fits the buffer. -/
def withBuffer (a : List Byte) (i : Instr) : Except DecodeError Instr :=
  if fitsBuffer a then .ok i else .error .operandTooLong

/-- The operation table (R100). An operand the operation does not read is ignored (R26). The code 0x6 is `SYNC` when
`A_CMD = SYNC_CMD` and `SEND` otherwise: the special case is keyed on the value of `A_CMD` alone (R174). -/
def decode (syncCmd : Byte) (r : OperandRegs) : Except DecodeError Instr :=
  match r.op.toNat with
  | 0x1 => withBuffer r.a (.crc16 r.a)
  | 0x2 => withBuffer r.a (.encode r.seqAddr r.cmd r.a)
  | 0x3 => withBuffer r.a (.decode r.a)
  | 0x4 => .ok .seqNext
  | 0x5 => .ok .seqReset
  | 0x6 => withBuffer r.a (if r.cmd = syncCmd then .sync r.a else .send r.cmd r.a)
  | 0x8 => withBuffer r.a (.decIdent r.a)
  | 0x9 => withBuffer r.a (.decChan r.ver r.a)
  | 0xA => withBuffer r.a (.decSetup r.a)
  | 0xC => .ok .pollStart
  | 0xD => .ok .pollStop
  | _ => .error .illegalOp

/-- The operation code of each operation (R100). -/
def Instr.opcode : Instr → BitVec 4
  | .crc16 _ => 0x1
  | .encode _ _ _ => 0x2
  | .decode _ => 0x3
  | .seqNext => 0x4
  | .seqReset => 0x5
  | .send _ _ => 0x6
  | .sync _ => 0x6
  | .decIdent _ => 0x8
  | .decChan _ _ => 0x9
  | .decSetup _ => 0xA
  | .pollStart => 0xC
  | .pollStop => 0xD

/-- The operand registers that present `i`, each register it does not read being zero or empty. -/
def encode (syncCmd : Byte) (i : Instr) : OperandRegs :=
  let r : OperandRegs := { op := i.opcode, seqAddr := 0, cmd := 0, ver := 0, a := [] }
  match i with
  | .crc16 a => { r with a := a }
  | .encode seqAddr cmd data => { r with seqAddr := seqAddr, cmd := cmd, a := data }
  | .decode raw => { r with a := raw }
  | .seqNext => r
  | .seqReset => r
  | .send cmd data => { r with cmd := cmd, a := data }
  | .sync data => { r with cmd := syncCmd, a := data }
  | .decIdent p => { r with a := p }
  | .decChan ver p => { r with ver := ver, a := p }
  | .decSetup p => { r with a := p }
  | .pollStart => r
  | .pollStop => r

/-- The operand registers an opcode-table word stands for: the table numbers the 4-bit `OP` register as bits 3:0 (mask
0xF) and gives every operand register no bits, so they are zero (log 1). -/
def tableRegs (nbits w : Nat) : OperandRegs :=
  { op := BitVec.ofNat 4 (w % 2 ^ nbits), seqAddr := 0, cmd := 0, ver := 0, a := [] }

/-- The operation the decoder reads from an opcode-table word, with the default `SYNC_CMD` (log 12): the code of `SEND` and
`SYNC` reads as `SEND`, since `A_CMD` is then 0 (log 1). -/
def decodeTableWord (nbits w : Nat) : Option Instr :=
  match decode Config.defaultSyncCmd (tableRegs nbits w) with
  | .ok i => some i
  | .error _ => none

end Sys2Proof
end

