-- ==== Sys2Proof/Machine/State.lean ====
section
/-! DEFINITION. The machine's state (spec/10_state.md), its reset (R37, R290), and the reasons a step can stop. -/

namespace Sys2Proof.Machine

/-- The two agents that start operations (R20). -/
inductive Agent where
  | host
  | poller
  deriving DecidableEq, Repr, Inhabited

/-- `LOCK`: the agent whose exchange is in progress (R24). -/
inductive Lock where
  | free
  | host
  | poller
  deriving DecidableEq, Repr

/-- `XPH`, the exchange phase (R24). -/
inductive Xph where
  | idle
  | awaitReply
  deriving DecidableEq, Repr

/-- `POLL_RUN` (R25). -/
inductive PollRun where
  | stopped
  | running
  deriving DecidableEq, Repr

/-- The eight error kinds (R260) and the port's `IllegalOp` (R101). -/
inductive ErrKind where
  | notConnected
  | writeFailed
  | readFailed
  | timeout
  | truncated
  | checksumMismatch
  | malformedResponse
  | frameTooLarge
  | illegalOp
  deriving DecidableEq, Repr

/-- `genericStatus` (R91, R92). -/
inductive Status where
  | ok
  | fail
  | commandNotKnown
  | wrongNoParameters
  | parameterOutOfRange
  | commandCannotBeProcessed
  | softwareError
  | keyNotSet
  | unrecognised
  deriving DecidableEq, Repr

/-- The unit type enum (R94). -/
inductive UnitType where
  | validator
  | hopper
  | payout
  | combined
  | unknown
  deriving DecidableEq, Repr

/-- The result registers of one command port (R27, R28). `none`, and an index at or beyond a list's length, is the
spec's own "holds no value" (R27, R37, log 3). `rBuf` is `RBUF`, whose length register is `rLen`. -/
structure Results where
  err        : Option (BitVec 4)
  crc        : Option Word16
  rLen       : Option (BitVec 11)
  rBuf       : List Byte
  bit        : Option (BitVec 1)
  start      : Option Byte
  seqAddr    : Option Byte
  fLen       : Option Byte
  status     : Option (BitVec 4)
  statusByte : Option Byte
  dLen       : Option Byte
  uCode      : Option Byte
  uType      : Option (BitVec 3)
  uFw        : Option (Vector Byte 4)
  uCc        : Option (Vector Byte 3)
  uMult      : Option (BitVec 15)
  uPver      : Option Byte
  tN         : Option Byte
  tVb        : List Byte
  tExt       : List (BitVec 1)
  tCc        : List (Vector Byte 3)
  tFull      : List (BitVec 32)
  tVal       : List (BitVec 32)
  tSec       : List Byte
  sRmult     : Option (BitVec 24)
  deriving DecidableEq, Repr

/-- Every result register without a value (R27, R37). -/
def Results.blank : Results where
  err := none
  crc := none
  rLen := none
  rBuf := []
  bit := none
  start := none
  seqAddr := none
  fLen := none
  status := none
  statusByte := none
  dLen := none
  uCode := none
  uType := none
  uFw := none
  uCc := none
  uMult := none
  uPver := none
  tN := none
  tVb := []
  tExt := []
  tCc := []
  tFull := []
  tVal := []
  tSec := []
  sRmult := none

/-- One command port: operand registers (R26) and result registers (R27, R28). -/
structure Port where
  opnd : OperandRegs
  res  : Results
  deriving DecidableEq, Repr

/-- The configuration registers, latched at construction (R30, R31). The engine inspects `addr` alone. -/
structure CfgRegs where
  port    : Nat
  baud    : Nat
  addr    : BitVec 7
  timeout : Nat
  deriving DecidableEq, Repr

/-- One call on the transport port with its answer (R63, R64). -/
inductive Call where
  | write (a : Agent) (bytes : List Byte) (ans : WriteAnswer)
  | read (a : Agent) (ans : ReadAnswer)
  deriving DecidableEq, Repr

/-- The sink's records (R106). -/
inductive SinkRec where
  | event (code : Byte) (args : List Byte)
  | pollError (err : ErrKind)
  | pollStatus (status : BitVec 4) (byte : Byte)
  | pollMalformed (code : Byte) (avail need : Nat)
  deriving DecidableEq, Repr

/-- What the outside world will decide (the model's own; log 7, 8, 9): scripts read first, then free values, applied to
the transport's history (R62) and to the counter `draws`. -/
structure Inputs where
  turns   : List Turn
  hostOps : List OperandRegs
  writes  : List WriteAnswer
  reads   : List ReadAnswer
  draws   : Nat
  deriving DecidableEq, Repr

/-- The whole machine. -/
structure State where
  /-- `SEQ` (R23): 0 is `EXPECT_0`, 1 is `EXPECT_1`. -/
  seq : BitVec 1
  /-- `LOCK` (R24). -/
  lock : Lock
  /-- `XPH` (R24). -/
  xph : Xph
  /-- `POLL_RUN` (R25). -/
  pollRun : PollRun
  /-- `CFG_PORT`, `CFG_BAUD`, `CFG_ADDR`, `CFG_TIMEOUT` (R30, R31). -/
  cfg : CfgRegs
  /-- `CONNECTED`, an input (R32). -/
  connected : Bool
  /-- The host command port (R26 to R28). -/
  host : Port
  /-- The poller's command port, inside the engine (R29). -/
  poller : Port
  /-- `TXBUF` (R34); empty when it holds no value. -/
  txBuf : List Byte
  /-- `RXBUF` (R34); empty when it holds no value. -/
  rxBuf : List Byte
  /-- The sequence bit `b` of the exchange in progress (R170, log 10). -/
  xBit : Option (BitVec 1)
  /-- The parameters of R7; no step writes them (log 12). -/
  par : Params
  /-- An operation is presented on the host port and has not begun (the model's own, log 9). -/
  hostPending : Bool
  /-- What the outside world will decide (the model's own, log 7). -/
  inp : Inputs
  /-- The history of transport calls, oldest first: what the oracle sees (R62, log 13). -/
  calls : List Call
  /-- The records published, oldest first (the model's own, log 13). -/
  sink : List SinkRec
  deriving DecidableEq, Repr

/-- No operation of this machine faults: its errors end one operation and are next states (R270, R273, log 17). -/
inductive Fault where
  deriving DecidableEq, Repr

/-- Why a step has no meaning. -/
inductive Refusal where
  /-- Raised by an arm of exec that has no meaning yet; none is left. Safe: the machine stops. -/
  | notModelled (mnemonic : String)
  /-- Raised by the host's turn when a presented operand string is longer than `BUF_MAX`, which the port cannot
  express (R101, U16, log 16). Safe: the machine stops. -/
  | operandTooLong
  deriving DecidableEq, Repr

/-- Operand registers as the model has them at reset (DESIGN CHOICE, log 4: R37 gives them no value). -/
def OperandRegs.zero : OperandRegs := { op := 0, seqAddr := 0, cmd := 0, ver := 0, a := [] }

/-- A command port at reset (R37, log 3, log 4). -/
def Port.reset : Port := { opnd := OperandRegs.zero, res := Results.blank }

/-- The engine right after construction (R37, R290). -/
def State.reset : State where
  seq := 0
  lock := .free
  xph := .idle
  pollRun := .stopped
  cfg := { port := Config.cfgPort, baud := Config.cfgBaud, addr := Config.cfgAddr, timeout := Config.cfgTimeout }
  connected := false
  host := Port.reset
  poller := Port.reset
  txBuf := []
  rxBuf := []
  xBit := none
  par := Config.params
  hostPending := false
  inp := { turns := [], hostOps := [], writes := [], reads := [], draws := 0 }
  calls := []
  sink := []

end Sys2Proof.Machine
end

