-- ==== Sys2Proof/Machine/Operands.lean ====
section
/-! DEFINITION. Reading byte strings and assembling values from bits and bytes (R11, R52, R53, R103). Every caller tests
the length first, so no rule reads at or beyond a byte string's length (R56). -/

namespace Sys2Proof.Machine

/-- The five kinds of buffer of R50 are byte strings (R12): the list is the cells below the length register. -/
abbrev Memory := List Byte

/-- A buffer holds at most `BUF_MAX` bytes (R50). Equal buffers are equal lists. -/
def Memory.wf (m : Memory) : Bool := fitsBuffer m

/-- The cell at `off`: no value at or beyond the length (R12, R27). -/
def Memory.read (m : Memory) (off : Nat) : Option Byte := m[off]?

/-- `B[i]` (R11), for `i < len(B)`. -/
def byteAt (b : List Byte) (i : Nat) : Byte := b.getD i 0

/-- The `n` bytes `B[off .. off+n-1]` (R11). -/
def slice (b : List Byte) (off n : Nat) : List Byte := (b.drop off).take n

/-- `MemRead(B, off, n)`: `n` bytes read little-endian (R11, R52). -/
def memRead (b : List Byte) : Nat → Nat → Nat
  | _, 0 => 0
  | off, n + 1 => (byteAt b off).toNat + 256 * memRead b (off + 1) n

/-- `c[7:0]` (R85). -/
def lowByte (c : Word16) : Byte := c.extractLsb' 0 8

/-- `c[15:8]` (R85). -/
def highByte (c : Word16) : Byte := c.extractLsb' 8 8

/-- The sequence/address byte `(b << 7) | CFG_ADDR` (R82, R176). -/
def seqAddrByte (b : BitVec 1) (addr : BitVec 7) : Byte := (b.setWidth 8 <<< 7) ||| addr.setWidth 8

/-- The sequence bit of a sequence/address byte, bit 7 (R82, R145). -/
def seqBitOf (sa : Byte) : BitVec 1 := sa.extractLsb' 7 1

/-- The slave address of a sequence/address byte, bits 6:0 (R82, R145). -/
def addrOf (sa : Byte) : BitVec 7 := sa.extractLsb' 0 7

/-- Three characters in wire order (R53). -/
def chars3 (p : List Byte) (off : Nat) : Vector Byte 3 :=
  #v[byteAt p off, byteAt p (off + 1), byteAt p (off + 2)]

/-- Four characters in wire order (R53). -/
def chars4 (p : List Byte) (off : Nat) : Vector Byte 4 :=
  #v[byteAt p off, byteAt p (off + 1), byteAt p (off + 2), byteAt p (off + 3)]

/-- The digit arithmetic `b[2]*100 + b[1]*10 + b[0]` on natural numbers, without a range check (R204, R205). -/
def digitValue (p : List Byte) (off : Nat) : Nat :=
  (byteAt p (off + 2)).toNat * 100 + (byteAt p (off + 1)).toNat * 10 + (byteAt p off).toNat

/-- Where the value-multiplier byte, the country code and the full value of channel `i` of `n` lie (R97). -/
def channelOffsets (layout : ChannelLayout) (n i : Nat) : Nat × Nat × Nat :=
  match layout with
  | .interleaved => (1 + 8 * i, 2 + 8 * i, 5 + 8 * i)
  | .arrays => (1 + i, 1 + n + 3 * i, 1 + 4 * n + 4 * i)

end Sys2Proof.Machine
end

