-- ==== Sys2Proof/Machine/Flags.lean ====
section
/-! DEFINITION. The one-bit and enumerated values of the machine: their encodings (R24, R91, R94, R102), how `SEQ`
steps (R160, R162, R174, R175), and how a status or unit-type byte is classified (R92, R94). -/

namespace Sys2Proof.Machine

/-- `LOCK` as its two bits; 3 never occurs (R24). -/
def Lock.code : Lock → BitVec 2
  | .free => 0
  | .host => 1
  | .poller => 2

/-- `XPH` as its bit (R24). -/
def Xph.code : Xph → BitVec 1
  | .idle => 0
  | .awaitReply => 1

/-- `POLL_RUN` as its bit (R25). -/
def PollRun.code : PollRun → BitVec 1
  | .stopped => 0
  | .running => 1

/-- The lock value that names an agent (R24). -/
def Lock.ofAgent : Agent → Lock
  | .host => .host
  | .poller => .poller

/-- `ERR` values (R102). -/
def ErrKind.code : ErrKind → BitVec 4
  | .notConnected => 0x1
  | .writeFailed => 0x2
  | .readFailed => 0x3
  | .timeout => 0x4
  | .truncated => 0x5
  | .checksumMismatch => 0x6
  | .malformedResponse => 0x7
  | .frameTooLarge => 0x8
  | .illegalOp => 0xF

/-- `R_STATUS` values (R91, R92). -/
def Status.code : Status → BitVec 4
  | .ok => 0
  | .fail => 1
  | .commandNotKnown => 2
  | .wrongNoParameters => 3
  | .parameterOutOfRange => 4
  | .commandCannotBeProcessed => 5
  | .softwareError => 6
  | .keyNotSet => 7
  | .unrecognised => 8

/-- `StatusOf` (R92): the row whose value the byte equals, else `UNRECOGNISED` (R93). -/
def statusOf (c : StatusCodes) (b : Byte) : Status :=
  if b = Config.stOk then .ok
  else if b = c.fail then .fail
  else if b = c.commandNotKnown then .commandNotKnown
  else if b = c.wrongNoParameters then .wrongNoParameters
  else if b = c.parameterOutOfRange then .parameterOutOfRange
  else if b = c.commandCannotBeProcessed then .commandCannotBeProcessed
  else if b = c.softwareError then .softwareError
  else if b = c.keyNotSet then .keyNotSet
  else .unrecognised

/-- `U_TYPE` values (R94). -/
def UnitType.code : UnitType → BitVec 3
  | .validator => 0
  | .hopper => 1
  | .payout => 2
  | .combined => 3
  | .unknown => 4

/-- `UnitTypeOf` (R94, R202). -/
def unitTypeOf (u : UnitCodes) (b : Byte) : UnitType :=
  if b = Config.utValidator then .validator
  else if b = u.hopper then .hopper
  else if b = u.payout then .payout
  else if b = u.combined then .combined
  else .unknown

/-- The state change of `SEQ_NEXT`: the bit returned is the value before the flip (R160). -/
def seqNextStep (seq : BitVec 1) : BitVec 1 × BitVec 1 := (seq, seq ^^^ 1)

/-- The state change of `SEQ_RESET` with the bit a synchronization command carries: `EXPECT_0`, no flip (R162, R174). -/
def seqResetStep : BitVec 1 × BitVec 1 := (0, 0)

/-- The bit a command carries and the new `SEQ`: keyed on the command byte alone (R174, R175). -/
def seqForCommand (syncCmd cmd : Byte) (seq : BitVec 1) : BitVec 1 × BitVec 1 :=
  if cmd = syncCmd then seqResetStep else seqNextStep seq

/-- `EVENT_ARGLEN(code)` (R247). -/
def argLen (p : Params) (code : Byte) : Nat := (p.eventArgLen[code.toNat]'code.isLt).toNat

end Sys2Proof.Machine
end

