-- ==== Sys2Proof/Machine/Ops.lean ====
section
/-! DEFINITION. The shared operations: the updates of State, completing an operation, `raise` (R270), the transport
port (R59 to R65), the sink (R248) and the host's presenting of an operation (R26). -/

namespace Sys2Proof.Machine

/-! ### Updates -/

def State.setSeq (b : BitVec 1) (s : State) : State := { s with seq := b }
def State.setLock (l : Lock) (s : State) : State := { s with lock := l }
def State.setPollRun (r : PollRun) (s : State) : State := { s with pollRun := r }
def State.setConnected (b : Bool) (s : State) : State := { s with connected := b }
def State.setTx (bytes : Memory) (s : State) : State := { s with txBuf := bytes }
def State.setRx (bytes : Memory) (s : State) : State := { s with rxBuf := bytes }
def State.setInp (inp : Inputs) (s : State) : State := { s with inp := inp }

/-- `XPH` and the bit of the exchange in progress change together (R180, R188). -/
def State.setExchange (x : Xph) (bit : Option (BitVec 1)) (s : State) : State := { s with xph := x, xBit := bit }

/-- One more call in the transport's history. -/
def State.logCall (c : Call) (s : State) : State := { s with calls := s.calls ++ [c] }

/-- `Publish`, once per record, in order (R248). -/
def State.publish (recs : List SinkRec) (s : State) : State := { s with sink := s.sink ++ recs }

/-- An agent writes its operand registers (R26). -/
def State.setOpnd (a : Agent) (r : OperandRegs) (s : State) : State :=
  match a with
  | .host => { s with host := { s.host with opnd := r } }
  | .poller => { s with poller := { s.poller with opnd := r } }

/-- The result registers of agent `a`'s port become `r`: those `r` does not write hold no value (R27, R29). -/
def State.setRes (a : Agent) (r : Results) (s : State) : State :=
  match a with
  | .host => { s with host := { s.host with res := r } }
  | .poller => { s with poller := { s.poller with res := r } }

/-- The host's presented operation has begun (log 9); the poller's port is never left pending. -/
def State.begun (a : Agent) (s : State) : State :=
  match a with
  | .host => { s with hostPending := false }
  | .poller => s

/-- The host writes the operand registers and starts the operation (R26, log 9). -/
def State.present (r : OperandRegs) (s : State) : State := { s.setOpnd .host r with hostPending := true }

/-! ### Completion -/

/-- An operation of agent `a` completes with the results `r` (R27). -/
def State.complete (a : Agent) (r : Results) (s : State) : State := (s.setRes a r).begun a

/-- The results of an operation that succeeds and writes nothing but `ERR`. -/
def Results.success : Results := { Results.blank with err := some 0 }

/-- The results of an operation that ends with an error: `ERR` alone has a value (R270). -/
def Results.error (e : ErrKind) : Results := { Results.blank with err := some e.code }

/-- `raise e` (R270): the machine's one exception entry. The operation ends, `ERR <- code(e)`, no other result register
of the port holds a value, the engine state stays as the operation left it, and control goes nowhere (R273). -/
def State.raise (a : Agent) (e : ErrKind) (s : State) : State := s.complete a (Results.error e)

/-! ### The transport port -/

/-- What the transport sees of a call; which agent made it stays in the engine (R62). -/
def Call.onPort : Call → PortCall
  | .write _ bytes ans => .write bytes ans
  | .read _ ans => .read ans

/-- The history the oracle sees: all earlier `TWrite` and `TRead` calls, oldest first (R62). -/
def State.history (s : State) : List PortCall := s.calls.map Call.onPort

/-- The answer a `TWrite` of `bytes` gets next: the script's, else a free one that may depend on the bytes and on the
history (R62, R65, log 7). -/
def State.nextWrite (bytes : List Byte) (s : State) : WriteAnswer :=
  match s.inp.writes with
  | [] => Config.freeWrite s.history bytes s.inp.draws
  | ans :: _ => ans

/-- The answer the next `TRead` gets: the script's, else a free one that may depend on the history (R62, R65, log 7). -/
def State.nextRead (s : State) : ReadAnswer :=
  match s.inp.reads with
  | [] => Config.freeRead s.history s.inp.draws
  | ans :: _ => ans

/-- Whose turn is next: the script's, else a free one (R66, log 8). -/
def State.nextTurn (s : State) : Turn :=
  match s.inp.turns with
  | [] => Config.freeTurn s.history s.inp.draws
  | t :: _ => t

/-- The inputs after a `TWrite` was answered. -/
def Inputs.afterWrite (i : Inputs) : Inputs :=
  match i.writes with
  | [] => { i with draws := i.draws + 1 }
  | _ :: rest => { i with writes := rest }

/-- The inputs after a `TRead` was answered. -/
def Inputs.afterRead (i : Inputs) : Inputs :=
  match i.reads with
  | [] => { i with draws := i.draws + 1 }
  | _ :: rest => { i with reads := rest }

/-- The inputs after a turn was taken. -/
def Inputs.afterTurn (i : Inputs) : Inputs :=
  match i.turns with
  | [] => { i with draws := i.draws + 1 }
  | _ :: rest => { i with turns := rest }

/-- `TWrite(TXBUF)` by agent `a`, the whole frame in one call (R58, R63, R178). -/
def State.tWrite (a : Agent) (s : State) : State :=
  (s.setInp s.inp.afterWrite).logCall (.write a s.txBuf (s.nextWrite s.txBuf))

/-- `TRead()` by agent `a` (R64, R181). -/
def State.tRead (a : Agent) (s : State) : State :=
  (s.setInp s.inp.afterRead).logCall (.read a s.nextRead)

/-! ### The end of an exchange -/

/-- `LOCK <- FREE` (R179, R188). -/
def State.release (s : State) : State := s.setLock .free

/-- Phase 2's end: the lock is released, `XPH <- IDLE`, and neither buffer keeps a value (R34, R187, R188). -/
def State.endExchange (s : State) : State := ((s.release.setTx []).setRx []).setExchange .idle none

/-! ### Fetching -/

/-- The operation the host port presents, read from its operand registers (R26, R100). -/
def State.fetch (s : State) : Except DecodeError Instr := decode s.par.syncCmd s.host.opnd

end Sys2Proof.Machine
end

