-- ==== Sys2Proof/Machine/Crc.lean ====
section
/-! DEFINITION. The CRC Engine (spec/40_crc.md): the checksum function and the operation `CRC16`. The accumulator lives
inside one evaluation (R33). -/

namespace Sys2Proof.Machine

/-- One of the 8 rounds: bit 15 is tested before the shift, and the bit shifted out is discarded (R120). -/
def crcRound (acc : Word16) : Word16 :=
  if acc.msb then (acc <<< 1) ^^^ Config.crcPoly else acc <<< 1

/-- `n` rounds. -/
def crcRounds : Nat → Word16 → Word16
  | 0, acc => acc
  | n + 1, acc => crcRounds n (crcRound acc)

/-- `CrcByte` (R121): the byte goes into bits 15:8, then 8 rounds. -/
def crcByte (acc : Word16) (b : Byte) : Word16 := crcRounds 8 (acc ^^^ (b.setWidth 16 <<< 8))

/-- `k w` (`evaluated_eq`). The test makes Lean's kernel evaluate `w` before it goes on, so that the checksum of the
longest frame can be evaluated; it decides nothing. -/
def evaluated {α : Type} (w : Word16) (k : Word16 → α) : α := if w.toNat = 0 then k 0 else k w

/-- The left fold of the byte step over a byte string, in increasing offset order (R121; `crcFold_eq_foldl`). -/
def crcFold : List Byte → Word16 → Word16
  | [], acc => acc
  | b :: rest, acc => evaluated (crcByte acc b) (crcFold rest)

/-- `CRC16(B)`: the fold from `CRC_INIT` (R120, R121). -/
def crc16 (bytes : List Byte) : Word16 := crcFold bytes Config.crcInit

/-- A checksum as it is stored and returned: low byte first (R85, R123). -/
def checksumBytes (c : Word16) : List Byte := [lowByte c, highByte c]

/-- The results of `CRC16` (R123). -/
def crcResults (a : List Byte) : Results :=
  { Results.success with crc := some (crc16 a), rLen := some 2, rBuf := checksumBytes (crc16 a) }

/-- `CRC16` (R123): no error, no engine state, no lock. -/
def execCrc16 (a : List Byte) (s : State) : Host.Outcome State Fault Refusal :=
  .next (s.complete .host (crcResults a))

end Sys2Proof.Machine
end

