-- ==== Sys2Proof/Machine/Codec.lean ====
section
/-! DEFINITION. The Frame Codec (spec/41_frame_codec.md): the Frame record, encoding and decoding a frame, and the
operations `ENCODE` and `DECODE`. -/

namespace Sys2Proof.Machine

/-- A decoded frame (R130, R140). -/
structure Frame where
  start    : Byte
  seqAddr  : Byte
  length   : Byte
  payload  : List Byte
  checksum : Word16
  deriving DecidableEq, Repr

/-- The bytes the checksum of a command frame covers (R84, R131). -/
def commandBody (seqAddr cmd : Byte) (data : List Byte) : List Byte :=
  [seqAddr, BitVec.ofNat 8 (data.length + 1), cmd] ++ data

/-- A command frame (R80, R131): no byte stuffing (R88). -/
def commandFrame (seqAddr cmd : Byte) (data : List Byte) : List Byte :=
  [Config.stx] ++ commandBody seqAddr cmd data ++ checksumBytes (crc16 (commandBody seqAddr cmd data))

/-- Encoding (R131, R132): the length byte must hold `1 + len(data)`; the 1024-byte test comes after it. -/
def encodeFrame (seqAddr cmd : Byte) (data : List Byte) : Except ErrKind (List Byte) :=
  if data.length > Config.dataMax then .error .frameTooLarge
  else if 6 + data.length > Config.maxFrame then .error .frameTooLarge
  else .ok (commandFrame seqAddr cmd data)

/-- Decoding (R140 to R149): the checks in this order; the declared length is authoritative, trailing bytes are
ignored (R146), the start marker is not tested (R143). -/
def decodeFrame (raw : List Byte) : Except ErrKind Frame :=
  if raw.length < 3 then .error .truncated
  else
    let len := (byteAt raw 2).toNat
    if raw.length < 5 + len then .error .truncated
    else if (crc16 (slice raw 1 (2 + len))).toNat ≠ memRead raw (3 + len) 2 then .error .checksumMismatch
    else
      .ok { start := byteAt raw 0, seqAddr := byteAt raw 1, length := byteAt raw 2, payload := slice raw 3 len,
            checksum := BitVec.ofNat 16 (memRead raw (3 + len) 2) }

/-- The results of a successful `ENCODE` (R131). -/
def encodeResults (frame : List Byte) : Results :=
  { Results.success with rLen := some (BitVec.ofNat 11 frame.length), rBuf := frame }

/-- The results of a successful `DECODE` (R140). -/
def decodeResults (f : Frame) : Results :=
  { Results.success with
    start := some f.start, seqAddr := some f.seqAddr, fLen := some f.length,
    rLen := some (BitVec.ofNat 11 f.payload.length), rBuf := f.payload, crc := some f.checksum }

/-- `ENCODE` (R131 to R133). -/
def execEncode (seqAddr cmd : Byte) (data : List Byte) (s : State) : Host.Outcome State Fault Refusal :=
  match encodeFrame seqAddr cmd data with
  | .error e => .next (s.raise .host e)
  | .ok frame => .next (s.complete .host (encodeResults frame))

/-- `DECODE` (R140 to R149). -/
def execDecode (raw : List Byte) (s : State) : Host.Outcome State Fault Refusal :=
  match decodeFrame raw with
  | .error e => .next (s.raise .host e)
  | .ok f => .next (s.complete .host (decodeResults f))

end Sys2Proof.Machine
end

