-- ==== Sys2Proof/Machine/Sequence.lean ====
section
/-! DEFINITION. The Sequence Controller (spec/42_sequence.md): the operations `SEQ_NEXT` and `SEQ_RESET`. While an
exchange is in progress they hold: no step is taken and nothing changes (R164). -/

namespace Sys2Proof.Machine

/-- `SEQ_NEXT` (R160, R164). -/
def execSeqNext (s : State) : Host.Outcome State Fault Refusal :=
  if s.lock = .free then
    .next ((s.setSeq (seqNextStep s.seq).2).complete .host
      { Results.success with bit := some (seqNextStep s.seq).1 })
  else .next s

/-- `SEQ_RESET` (R162, R164). -/
def execSeqReset (s : State) : Host.Outcome State Fault Refusal :=
  if s.lock = .free then .next ((s.setSeq seqResetStep.2).complete .host Results.success)
  else .next s

end Sys2Proof.Machine
end

