-- ==== Sys2Proof/Machine/Channel.lean ====
section
/-! DEFINITION. The Command Channel (spec/43_command_channel.md): the two phases of an exchange, for either agent, and
the operations `SEND` and `SYNC`. -/

namespace Sys2Proof.Machine

/-- A reply that decoded and has a status byte (R184). -/
structure Response where
  frame      : Frame
  statusByte : Byte
  status     : Status
  rawPayload : List Byte
  deriving DecidableEq, Repr

/-- Phase 1 ends with an error: the lock is released in the same step, there is no phase 2 (R179, R270). -/
def State.failStart (a : Agent) (e : ErrKind) (s : State) : State × Option ErrKind :=
  (s.release.raise a e, some e)

/-- Phase 1 of an exchange by agent `a`, for a state whose lock is free (R170 to R180). With the state it answers the
error that ended the exchange, if one did. The tests come in the order of R190; `SEQ` is never restored (R173). -/
def sendStart (a : Agent) (cmd : Byte) (data : List Byte) (s : State) : State × Option ErrKind :=
  let locked := s.setLock (Lock.ofAgent a)
  if s.connected then
    let step := seqForCommand s.par.syncCmd cmd s.seq
    let stepped := locked.setSeq step.2
    match encodeFrame (seqAddrByte step.1 s.cfg.addr) cmd data with
    | .error e => stepped.failStart a e
    | .ok frame =>
      let written := (stepped.setTx frame).tWrite a
      match s.nextWrite frame with
      | .wErr => (written.setTx []).failStart a .writeFailed
      | .wOk _ => ((written.setExchange .awaitReply (some step.1)).begun a, none)
  else locked.failStart a .notConnected

/-- The bytes a `TRead` answer puts into `RXBUF`: at most `BUF_MAX` of them (R64, R181). -/
def receivedBytes : ReadAnswer → Memory
  | .rErr => []
  | .rOk bytes => bytes.take Config.bufMax

/-- The reply a decoded frame is: its first payload byte is the status (R184); a frame without one is
`MalformedResponse` (R183). -/
def responseOf (c : StatusCodes) (f : Frame) : Except ErrKind Response :=
  match f.payload with
  | [] => .error .malformedResponse
  | st :: rest => .ok { frame := f, statusByte := st, status := statusOf c st, rawPayload := rest }

/-- The reply of an exchange: `ReadFailed`, `Timeout`, the Frame Codec's error on `RXBUF`, `MalformedResponse`, or a
Response (R181 to R184, R190). Its start marker, sequence bit and address are not checked (R186). -/
def replyOf (c : StatusCodes) (ans : ReadAnswer) (rxBuf : Memory) : Except ErrKind Response :=
  match ans with
  | .rErr => .error .readFailed
  | .rOk [] => .error .timeout
  | .rOk (_ :: _) =>
    match decodeFrame rxBuf with
    | .error e => .error e
    | .ok f => responseOf c f

/-- The results of a successful exchange (R170, R184). `bit` is the sequence bit phase 1 sent. -/
def responseResults (r : Response) (bit : Option (BitVec 1)) : Results :=
  { Results.success with
    statusByte := some r.statusByte, status := some r.status.code,
    rBuf := r.rawPayload, rLen := some (BitVec.ofNat 11 r.rawPayload.length),
    dLen := some (BitVec.ofNat 8 r.rawPayload.length),
    start := some r.frame.start, seqAddr := some r.frame.seqAddr, fLen := some r.frame.length,
    crc := some r.frame.checksum, bit := bit }

/-- Phase 2 of an exchange by agent `a` (R181 to R188): one `TRead`, the reply to `RXBUF`, the release of the lock, and
the result registers or the error. -/
def sendFinish (a : Agent) (s : State) : State × Except ErrKind Response :=
  let received := (s.tRead a).setRx (receivedBytes s.nextRead)
  match replyOf s.par.status s.nextRead received.rxBuf with
  | .error e => (received.endExchange.raise a e, .error e)
  | .ok r => (received.endExchange.complete a (responseResults r s.xBit), .ok r)

/-- `SEND` as the host presents it: phase 1 when the lock is free; otherwise it holds (R171). Phase 2 is the host's
next turn (R180). -/
def execSend (cmd : Byte) (data : List Byte) (s : State) : Host.Outcome State Fault Refusal :=
  if s.lock = .free then .next (sendStart .host cmd data s).1 else .next s

/-- `SYNC` (R105, R174): the exchange with `A_CMD = SYNC_CMD`. -/
def execSync (data : List Byte) (s : State) : Host.Outcome State Fault Refusal :=
  if s.lock = .free then .next (sendStart .host s.par.syncCmd data s).1 else .next s

end Sys2Proof.Machine
end

