-- ==== Sys2Proof/Machine/Decoder.lean ====
section
/-! DEFINITION. The Response Decoder (spec/44_response_decoder.md): pure functions of the operand string and the
operations `DEC_IDENT`, `DEC_CHAN` and `DEC_SETUP`. The length test comes first; bytes beyond the shape are ignored
(R199). -/

namespace Sys2Proof.Machine

/-- Offsets 0 to 10 of the identity layout (R95), shared by the identity and the setup shape (R98, R222). -/
def identityFields (u : UnitCodes) (p : List Byte) : Results :=
  { Results.success with
    uCode := some (byteAt p 0), uType := some (unitTypeOf u (byteAt p 0)).code,
    uFw := some (chars4 p 1), uCc := some (chars3 p 5), uMult := some (BitVec.ofNat 15 (digitValue p 8)) }

/-- The identity decode (R200 to R206). -/
def decodeIdent (u : UnitCodes) (p : List Byte) : Except ErrKind Results :=
  if p.length < 12 then .error .malformedResponse
  else .ok { identityFields u p with uPver := some (byteAt p 11) }

/-- The value byte of channel `i` in the version 6 layout (R97). -/
def channelValueByte (layout : ChannelLayout) (p : List Byte) (n i : Nat) : Byte :=
  byteAt p (channelOffsets layout n i).1

/-- The country code of channel `i` in the version 6 layout (R97). -/
def channelCountry (layout : ChannelLayout) (p : List Byte) (n i : Nat) : Vector Byte 3 :=
  chars3 p (channelOffsets layout n i).2.1

/-- The full value of channel `i` in the version 6 layout (R97, R214). -/
def channelFull (layout : ChannelLayout) (p : List Byte) (n i : Nat) : BitVec 32 :=
  BitVec.ofNat 32 (memRead p (channelOffsets layout n i).2.2 4)

/-- `T_EXT` of a value byte: 1 says 'use extended value' (R215). -/
def extendedFlag (b : Byte) : BitVec 1 := if b = 0 then 1 else 0

/-- The effective value of a channel (R215). -/
def effectiveValue (b : Byte) (full : BitVec 32) : BitVec 32 := if b = 0 then full else b.setWidth 32

/-- The legacy result for `n` channels (R213). -/
def legacyChannels (p : List Byte) (n : Nat) : Results :=
  { Results.success with
    tN := some (byteAt p 0), tVb := slice p 1 n, tVal := (slice p 1 n).map (·.setWidth 32) }

/-- The version 6 result for `n` channels (R214). -/
def extendedChannels (layout : ChannelLayout) (p : List Byte) (n : Nat) : Results :=
  { Results.success with
    tN := some (byteAt p 0),
    tVb := (List.range n).map fun i => channelValueByte layout p n i,
    tExt := (List.range n).map fun i => extendedFlag (channelValueByte layout p n i),
    tCc := (List.range n).map fun i => channelCountry layout p n i,
    tFull := (List.range n).map fun i => channelFull layout p n i,
    tVal := (List.range n).map fun i => effectiveValue (channelValueByte layout p n i) (channelFull layout p n i) }

/-- The channel-value decode (R210 to R216). -/
def decodeChannels (layout : ChannelLayout) (ver : Byte) (p : List Byte) : Except ErrKind Results :=
  if p.length < 1 then .error .malformedResponse
  else
    let n := (byteAt p 0).toNat
    if ver.toNat < Config.extVer then
      if p.length < 1 + n then .error .malformedResponse else .ok (legacyChannels p n)
    else
      if p.length < 1 + 8 * n then .error .malformedResponse else .ok (extendedChannels layout p n)

/-- The extended setup decode (R220 to R224). -/
def decodeSetup (u : UnitCodes) (p : List Byte) : Except ErrKind Results :=
  if p.length < 12 then .error .malformedResponse
  else
    let n := (byteAt p 11).toNat
    if p.length < 16 + 2 * n then .error .malformedResponse
    else
      .ok { identityFields u p with
            tN := some (byteAt p 11), tVb := slice p 12 n, tSec := slice p (12 + n) n,
            sRmult := some (BitVec.ofNat 24 (memRead p (12 + 2 * n) 3)), uPver := some (byteAt p (15 + 2 * n)) }

/-- A decoder completes the host's operation with its record or its error (R199). -/
def State.completeWith (r : Except ErrKind Results) (s : State) : State :=
  match r with
  | .error e => s.raise .host e
  | .ok res => s.complete .host res

/-- `DEC_IDENT` (R200). -/
def execDecIdent (p : List Byte) (s : State) : Host.Outcome State Fault Refusal :=
  .next (s.completeWith (decodeIdent s.par.units p))

/-- `DEC_CHAN` (R210). -/
def execDecChan (ver : Byte) (p : List Byte) (s : State) : Host.Outcome State Fault Refusal :=
  .next (s.completeWith (decodeChannels s.par.layout ver p))

/-- `DEC_SETUP` (R220). -/
def execDecSetup (p : List Byte) (s : State) : Host.Outcome State Fault Refusal :=
  .next (s.completeWith (decodeSetup s.par.units p))

end Sys2Proof.Machine
end

