-- ==== Sys2Proof/Machine/Poller.lean ====
section
/-! DEFINITION. The Event Poller (spec/45_event_poller.md): the operations `POLL_START` and `POLL_STOP`, and the poller's
own two steps, tick-begin and tick-end. -/

namespace Sys2Proof.Machine

/-- `POLL_START` (R240, R242). -/
def execPollStart (s : State) : Host.Outcome State Fault Refusal :=
  .next ((s.setPollRun .running).complete .host Results.success)

/-- `POLL_STOP` (R241, R242, R249). -/
def execPollStop (s : State) : Host.Outcome State Fault Refusal :=
  .next ((s.setPollRun .stopped).complete .host Results.success)

/-- The events of a reply's data (R247), `k` being `EVENT_ARGLEN`. The fuel is the data's length: every event takes at
least its code byte. -/
def eventsFuel (k : Byte → Nat) : Nat → List Byte → List SinkRec
  | 0, _ => []
  | _ + 1, [] => []
  | fuel + 1, code :: rest =>
    if rest.length < k code then [.pollMalformed code rest.length (k code)]
    else .event code (rest.take (k code)) :: eventsFuel k fuel (rest.drop (k code))

/-- The records an OK poll reply publishes (R247). -/
def eventsOf (k : Byte → Nat) (data : List Byte) : List SinkRec := eventsFuel k data.length data

/-- What a tick's exchange publishes at its end (R245, R246, R247). -/
def tickRecords (p : Params) (r : Except ErrKind Response) : List SinkRec :=
  match r with
  | .error e => [.pollError e]
  | .ok resp =>
    if resp.status = .ok then eventsOf (argLen p) resp.rawPayload
    else [.pollStatus resp.status.code resp.statusByte]

/-- What a tick-begin publishes: the error that ended the exchange in phase 1, if one did (R244). -/
def startRecords (e : Option ErrKind) : List SinkRec :=
  match e with
  | none => []
  | some e => [.pollError e]

/-- The operand registers of a poll: `SEND` with `POLL_CMD` and no data (R105, R244). -/
def pollOpnd (p : Params) : OperandRegs := { op := 0x6, seqAddr := 0, cmd := p.pollCmd, ver := 0, a := [] }

/-- Tick-begin (R243, R244): phase 1 of the poll exchange, its error published after the release of the lock (R248). -/
def tickBegin (s : State) : State :=
  let r := sendStart .poller s.par.pollCmd [] (s.setOpnd .poller (pollOpnd s.par))
  r.1.publish (startRecords r.2)

/-- Tick-end (R243, R245 to R248): phase 2, then the publication of its outcome. -/
def tickEnd (s : State) : State :=
  let r := sendFinish .poller s
  r.1.publish (tickRecords s.par r.2)

end Sys2Proof.Machine
end

