-- ==== Sys2Proof/Machine/Dispatch.lean ====
section
/-! DEFINITION. One arm per operation (R100). -/

namespace Sys2Proof.Machine

def exec (i : Instr) (s : State) : Host.Outcome State Fault Refusal :=
  match i with
  | .crc16 a => Sys2Proof.Machine.execCrc16 a s
  | .encode seqAddr cmd data => Sys2Proof.Machine.execEncode seqAddr cmd data s
  | .decode raw => Sys2Proof.Machine.execDecode raw s
  | .seqNext => Sys2Proof.Machine.execSeqNext s
  | .seqReset => Sys2Proof.Machine.execSeqReset s
  | .send cmd data => Sys2Proof.Machine.execSend cmd data s
  | .sync data => Sys2Proof.Machine.execSync data s
  | .decIdent p => Sys2Proof.Machine.execDecIdent p s
  | .decChan ver p => Sys2Proof.Machine.execDecChan ver p s
  | .decSetup p => Sys2Proof.Machine.execDecSetup p s
  | .pollStart => Sys2Proof.Machine.execPollStart s
  | .pollStop => Sys2Proof.Machine.execPollStop s

end Sys2Proof.Machine
end

