-- ==== Sys2Proof/Machine/Agents.lean ====
section
/-! DEFINITION. What each agent does with its turn (R20, R66). An agent that has no enabled step changes nothing. -/

namespace Sys2Proof.Machine

/-- The host's `SEND` is between its phases, so its port is occupied (R180, U17). -/
def State.hostAwaits (s : State) : Bool := decide (s.lock = .host) && decide (s.xph = .awaitReply)

/-- The poller's exchange is between its phases (R243). -/
def State.pollerAwaits (s : State) : Bool := decide (s.lock = .poller) && decide (s.xph = .awaitReply)

/-- Tick-begin is enabled (R243): `RUNNING`, the lock free, and no exchange of the poller's in progress. -/
def State.tickEnabled (s : State) : Bool := decide (s.pollRun = .running) && decide (s.lock = .free)

/-- The host's queue after it presented its next operation. -/
def State.popHostOp (s : State) : State := s.setInp { s.inp with hostOps := s.inp.hostOps.tail }

/-- The host's turn: phase 2 of its own `SEND`; else its presented operation, an unassigned code completing with
`ERR = 0xF` and no state change (R101); else the presenting of its next operation, if it has one (log 9). -/
def hostTurn (s : State) : Host.Outcome State Fault Refusal :=
  if s.hostAwaits then .next (sendFinish .host s).1
  else if s.hostPending then
    match s.fetch with
    | .ok i => exec i s
    | .error .illegalOp => .next (s.raise .host .illegalOp)
    | .error .operandTooLong => .refused .operandTooLong
  else
    match s.inp.hostOps with
    | [] => .next s
    | r :: _ => .next (s.popHostOp.present r)

/-- The poller's turn: tick-end, else tick-begin, when enabled (R243). -/
def pollerTurn (s : State) : State :=
  if s.pollerAwaits then tickEnd s
  else if s.tickEnabled then tickBegin s
  else s

/-- One turn of the agent `t` names; the surrounding software's turn drives the input `CONNECTED` (R32). -/
def runTurn (t : Turn) (s : State) : Host.Outcome State Fault Refusal :=
  match t with
  | .host => hostTurn s
  | .poller => .next (pollerTurn s)
  | .setConnected b => .next (s.setConnected b)

/-- The operation of an opcode-table word presented on the host port, with the host's turn next. -/
def State.presentWord (s : State) (nbits w : Nat) : State :=
  (s.setInp { s.inp with turns := .host :: s.inp.turns }).present (tableRegs nbits w)

end Sys2Proof.Machine
end

