-- ==== Sys2Proof/Machine/Step.lean ====
section
/-! DEFINITION. One step of the machine: the next agent takes its turn (R66). -/

namespace Sys2Proof.Machine

/-- One atomic step (R58, R66). -/
def step (s : State) : Host.Outcome State Fault Refusal :=
  runTurn s.nextTurn (s.setInp s.inp.afterTurn)

/-- `s` with the operation of an opcode-table word presented, so that the next step runs it (log 9). -/
def State.withFetchWord (s : State) (nbits w : Nat) : State := s.presentWord nbits w

end Sys2Proof.Machine
end

