-- ==== Sys2Proof/Safety.lean ====
section
/-! DEFINITION. What counts as a safe state and a safe run, in the terms the statements use. -/

namespace Sys2Proof.Machine

/-- A run: zero or more steps that each answer a next state. -/
inductive Reaches : State → State → Prop where
  | here (s : State) : Reaches s s
  | more {s t u : State} : step s = .next t → Reaches t u → Reaches s u

/-- A run all of whose states before a step satisfy `P`. -/
inductive RunWhile (P : State → Prop) : State → State → Prop where
  | here (s : State) : RunWhile P s s
  | more {s t u : State} : P s → step s = .next t → RunWhile P t u → RunWhile P s u

/-- The state an agent acts on in a step: the turn is taken, nothing else has changed (R66). -/
def State.turned (s : State) : State := { s with inp := s.inp.afterTurn }

/-- The host's operation has completed: its port holds the results `r` and no presented operation, and nothing else has
changed. -/
def State.hostDone (r : Results) (s : State) : State :=
  { s with host := { s.host with res := r }, hostPending := false }

/-- The next step is the host's and runs the presented operation `i`. -/
def State.Runs (i : Instr) (s : State) : Prop :=
  s.nextTurn = .host ∧ s.hostAwaits = false ∧ s.hostPending = true ∧ decode s.par.syncCmd s.host.opnd = .ok i

/-- The command byte of the phase 1 the next step runs past the test of `CONNECTED` (R172), the commands R191 numbers. -/
def State.startsCommand (s : State) : Option Byte :=
  if s.lock = .free ∧ s.connected = true then
    match s.nextTurn with
    | .host =>
      if s.hostPending then
        match decode s.par.syncCmd s.host.opnd with
        | .ok (.send cmd _) => some cmd
        | .ok (.sync _) => some s.par.syncCmd
        | _ => none
      else none
    | .poller => if s.pollRun = .running then some s.par.pollCmd else none
    | .setConnected _ => none
  else none

/-- The bit a command carries: 0 for the synchronization command, `SEQ` for any other (R174, R175). -/
def State.bitFor (cmd : Byte) (s : State) : BitVec 1 := if cmd = s.par.syncCmd then 0 else s.seq

/-- The next step starts no command and is no `SEQ_NEXT` or `SEQ_RESET` (R191). -/
def State.LeavesSequence (s : State) : Prop :=
  s.startsCommand = none ∧ ¬ s.Runs .seqNext ∧ ¬ s.Runs .seqReset

/-- Which of `A_SEQADDR`, `A_CMD`, `A_VER` and `A` an operation reads (R26, R100). -/
structure OperandUse where
  seqAddr : Bool
  cmd     : Bool
  ver     : Bool
  a       : Bool

/-- The operands column of R100. -/
def operandsRead : Instr → OperandUse
  | .crc16 _ => ⟨false, false, false, true⟩
  | .encode _ _ _ => ⟨true, true, false, true⟩
  | .decode _ => ⟨false, false, false, true⟩
  | .seqNext => ⟨false, false, false, false⟩
  | .seqReset => ⟨false, false, false, false⟩
  | .send _ _ => ⟨false, true, false, true⟩
  | .sync _ => ⟨false, true, false, true⟩
  | .decIdent _ => ⟨false, false, false, true⟩
  | .decChan _ _ => ⟨false, false, true, true⟩
  | .decSetup _ => ⟨false, false, false, true⟩
  | .pollStart => ⟨false, false, false, false⟩
  | .pollStop => ⟨false, false, false, false⟩

/-- `r` and `r'` agree on `OP` and on every operand `u` marks. -/
def OperandUse.Agree (u : OperandUse) (r r' : OperandRegs) : Prop :=
  r.op = r'.op ∧ (u.seqAddr = true → r.seqAddr = r'.seqAddr) ∧ (u.cmd = true → r.cmd = r'.cmd) ∧
    (u.ver = true → r.ver = r'.ver) ∧ (u.a = true → r.a = r'.a)

/-- The operations that are pure functions of their operands (R68). -/
def isPure : Instr → Bool
  | .crc16 _ => true
  | .encode _ _ _ => true
  | .decode _ => true
  | .seqNext => false
  | .seqReset => false
  | .send _ _ => false
  | .sync _ => false
  | .decIdent _ => true
  | .decChan _ _ => true
  | .decSetup _ => true
  | .pollStart => false
  | .pollStop => false

/-- The two states differ at most in what leaves the engine through the poller alone: its port and the sink (R29). -/
def State.SameButPoller (s t : State) : Prop := t = { s with poller := t.poller, sink := t.sink }

/-- R120 on natural numbers, one round: the test of bit 15, the shift truncated to 16 bits, the exclusive or. -/
def crcReferenceRound (acc : Nat) : Nat :=
  if acc / 32768 % 2 = 1 then (acc * 2 % 65536) ^^^ 0x8005 else acc * 2 % 65536

/-- R120 on natural numbers: the outer loop over the bytes, the byte going into bits 15:8. -/
def crcReference : List Byte → Nat → Nat
  | [], acc => acc
  | b :: rest, acc =>
    crcReference rest (Nat.iterate crcReferenceRound 8 (acc ^^^ (b.toNat * 256)))

/-- The sequence/address byte of R82: bit 7 the sequence bit, bits 6:0 the address. -/
def wireSeqAddr (b : BitVec 1) (addr : BitVec 7) : Byte := b ++ addr

/-- A frame with a right checksum (R80, R85): `st` at offset 0, then the body, then the checksum low byte first. -/
def wireFrame (st sa : Byte) (payload : List Byte) : List Byte :=
  let body := sa :: BitVec.ofNat 8 payload.length :: payload
  st :: body ++ [(crc16 body).extractLsb' 0 8, (crc16 body).extractLsb' 8 8]

/-- The command frame (R131, R176). -/
def commandWire (b : BitVec 1) (addr : BitVec 7) (cmd : Byte) (data : List Byte) : List Byte :=
  wireFrame 0x7F (wireSeqAddr b addr) (cmd :: data)

/-- The transport answers that end an exchange with an error: the answer, the error, its `ERR` code (R102, R181 to R183,
R263 to R267). -/
inductive BadReply : ReadAnswer → ErrKind → BitVec 4 → Prop where
  | readFailed : BadReply .rErr .readFailed 0x3
  | timeout : BadReply (.rOk []) .timeout 0x4
  | noLength (bytes : List Byte) : bytes ≠ [] → bytes.length < 3 → BadReply (.rOk bytes) .truncated 0x5
  | short (st sa len : Byte) (rest : List Byte) : rest.length < 2 + len.toNat →
      BadReply (.rOk (st :: sa :: len :: rest)) .truncated 0x5
  | checksum (st sa len lo hi : Byte) (payload extra : List Byte) : payload.length = len.toNat →
      lo.toNat + 256 * hi.toNat ≠ (crc16 (sa :: len :: payload)).toNat →
      BadReply (.rOk (st :: sa :: len :: payload ++ lo :: hi :: extra)) .checksumMismatch 0x6
  | noStatus (st sa : Byte) (extra : List Byte) : BadReply (.rOk (wireFrame st sa [] ++ extra)) .malformedResponse 0x7

/-- An exchange of agent `a` is over: one `TRead` was made, the lock is free, and neither buffer holds a value (R187,
R188). -/
def State.exchangeOver (a : Agent) (s : State) : State :=
  { s with
    lock := .free, xph := .idle, xBit := none, txBuf := [], rxBuf := [],
    inp := s.inp.afterRead, calls := s.calls ++ [.read a s.nextRead] }

/-- The result registers of an exchange whose reply is `wireFrame st sa (status :: data)` (R184), the command having
carried the bit `b`. -/
def replyRecord (c : StatusCodes) (b : BitVec 1) (st sa status : Byte) (data : List Byte) : Results :=
  { Results.blank with
    err := some 0, status := some (statusOf c status).code, statusByte := some status,
    rBuf := data, rLen := some (BitVec.ofNat 11 data.length), dLen := some (BitVec.ofNat 8 data.length),
    start := some st, seqAddr := some sa, fLen := some (BitVec.ofNat 8 (data.length + 1)),
    crc := some (crc16 (sa :: BitVec.ofNat 8 (data.length + 1) :: status :: data)), bit := some b }

/-- An operation of the host ended with the code `n`: `ERR` alone holds a value (R270). -/
def State.hostErr (n : BitVec 4) (s : State) : State := s.hostDone { Results.blank with err := some n }

/-- The poller's exchange ended with the results `r`; the sink got `recs` (R248). -/
def State.pollerDone (r : Results) (recs : List SinkRec) (s : State) : State :=
  { s with poller := { s.poller with res := r }, sink := s.sink ++ recs }

/-- One channel of the version 6 layout as a record of R97. -/
structure ChannelRecord where
  valueByte : Byte
  country   : Vector Byte 3
  full      : Vector Byte 4

/-- The 8 bytes of a record in the `INTERLEAVED` layout (R97). -/
def ChannelRecord.bytes (c : ChannelRecord) : List Byte := c.valueByte :: (c.country.toList ++ c.full.toList)

/-- The full value of a record, little-endian (R52, R214). -/
def ChannelRecord.fullValue (c : ChannelRecord) : BitVec 32 :=
  c.full[3] ++ c.full[2] ++ c.full[1] ++ c.full[0]

/-- The results of `DEC_CHAN` for these channels (R214, R215). -/
def channelRecordResults (n : Byte) (cs : List ChannelRecord) : Results :=
  { Results.blank with
    err := some 0, tN := some n,
    tVb := cs.map (·.valueByte),
    tExt := cs.map fun c => if c.valueByte = 0 then 1 else 0,
    tCc := cs.map (·.country),
    tFull := cs.map (·.fullValue),
    tVal := cs.map fun c => if c.valueByte = 0 then c.fullValue else c.valueByte.setWidth 32 }

/-- The agent whose exchange is in progress (R24). -/
def State.owner (s : State) : Option Agent :=
  match s.lock with
  | .free => none
  | .host => some .host
  | .poller => some .poller

/-- The lock is held exactly while an exchange awaits its reply (R24, R179, R180, R188), and exactly then `xBit` holds a
bit, R170's `b` of that exchange (the model's choice, log 10). -/
def State.LockInv (s : State) : Prop :=
  (s.lock = .free ↔ s.xph = .idle) ∧ (s.xBit = none ↔ s.xph = .idle)

/-- R180: while the host's own exchange is in progress its port presents no other operation. -/
def State.PortInv (s : State) : Prop := s.lock = .host → s.hostPending = false

/-- R34, R170: while an exchange awaits its reply, `TXBUF` holds the frame that was written with the bit of the
exchange (`xBit`, log 10) and the configured address; otherwise it holds no value. `RXBUF` holds no value between steps (R187). -/
def State.FrameInv (s : State) : Prop :=
  s.rxBuf = [] ∧ (s.xph = .idle → s.txBuf = []) ∧
    (s.xph = .awaitReply → ∃ b cmd data, s.xBit = some b ∧ data.length ≤ Config.dataMax ∧
      s.txBuf = commandWire b s.cfg.addr cmd data)

/-- The transport calls are `(TWrite TRead?)*` (R60, R67, R179): `pending` is the agent whose write still awaits its
read. Answers the agent that awaits a read at the end, or nothing when the history breaks the rule. -/
def serialFrom : Option Agent → List Call → Option (Option Agent)
  | pending, [] => some pending
  | none, .write a _ (.wOk _) :: rest => serialFrom (some a) rest
  | none, .write _ _ .wErr :: rest => serialFrom none rest
  | none, .read _ _ :: _ => none
  | some a, .read a' _ :: rest => if a' = a then serialFrom none rest else none
  | some _, .write _ _ _ :: _ => none

/-- The history of transport calls is serialised, and the exchange it leaves open is the lock holder's (R67, R171). -/
def State.SerialInv (s : State) : Prop := serialFrom none s.calls = some s.owner

/-- A per-channel array holds no value, or one per channel (R28). -/
def arrayWf {α : Type} (n : Option Byte) (xs : List α) : Prop :=
  xs = [] ∨ ∃ k : Byte, n = some k ∧ xs.length = k.toNat

/-- R27, R28, R270: `R_LEN` is the number of bytes of `RBUF`, the arrays are indexed by the channel count, and after an
error no register but `ERR` holds a value. -/
def Results.Wf (r : Results) : Prop :=
  (match r.rLen with
    | none => r.rBuf = []
    | some n => r.rBuf.length = n.toNat ∧ r.rBuf.length ≤ Config.bufMax) ∧
  arrayWf r.tN r.tVb ∧ arrayWf r.tN r.tExt ∧ arrayWf r.tN r.tCc ∧ arrayWf r.tN r.tFull ∧ arrayWf r.tN r.tVal ∧
  arrayWf r.tN r.tSec ∧
  (r.err = none → r = Results.blank) ∧
  (∀ e, r.err = some e → e ≠ 0 → ∃ k : ErrKind, e = k.code ∧ r = { Results.blank with err := some e })

/-- Every result register group is consistent (R27, R28). -/
def State.ResultInv (s : State) : Prop := s.host.res.Wf ∧ s.poller.res.Wf

/-- Every buffer is within its capacity (R50), and so is every operand string still to be presented. -/
def State.BufferInv (s : State) : Prop :=
  Memory.wf s.host.opnd.a = true ∧ Memory.wf s.poller.opnd.a = true ∧ Memory.wf s.txBuf = true ∧
    Memory.wf s.rxBuf = true ∧ ∀ r ∈ s.inp.hostOps, fitsBuffer r.a = true

/-- What every reachable state satisfies. -/
def State.Inv (s : State) : Prop :=
  s.par.wf = true ∧ s.LockInv ∧ s.PortInv ∧ s.FrameInv ∧ s.SerialInv ∧ s.ResultInv ∧ s.BufferInv

/-- R312: the host presents no further operation, the poller is stopped and no exchange is in progress. -/
def State.Quiescent (s : State) : Prop :=
  s.hostPending = false ∧ s.inp.hostOps = [] ∧ s.pollRun = .stopped ∧ s.lock = .free ∧ s.xph = .idle

end Sys2Proof.Machine
end

