-- ==== Sys2Proof/Certificates/Slice0/Obligations.lean ====
section
/-! DEFINITION. The statements for the provers, each from the numbered rules of spec/ its docstring names. A next state
written as a record update says the frame too: every field it does not name is unchanged. The fields `hostPending`,
`inp`, `calls` and `sink` are the model's own record of the port, the draws, the transport calls the oracle sees (R62)
and the outputs (log 7, 8, 9, 13); what a statement says of them is the model's choice. R170 names no register for the
bit `b` of the exchange in progress: that the field `xBit` holds it, and holds nothing while `XPH` is `IDLE`, is the
model's choice (log 10). -/

open Sys2Proof Sys2Proof.Machine

/-! ### CRC Engine -/

/-- R123: `OP = 0x1` is `CRC16`, on any input the buffer holds; it writes `R_CRC`, the two bytes low first, `R_LEN` and
`ERR`, in every state, and changes nothing else. -/
def Obligations.Crc16OperationCompletes : Prop :=
  (∀ (syncCmd : Byte) (r : OperandRegs), r.op = 0x1 → r.a.length ≤ 1024 → decode syncCmd r = .ok (.crc16 r.a)) ∧
  ∀ (a : List Byte) (s : State),
    exec (.crc16 a) s = .next (s.hostDone
      { Results.blank with
        err := some 0, crc := some (crc16 a), rLen := some 2,
        rBuf := [(crc16 a).extractLsb' 0 8, (crc16 a).extractLsb' 8 8] })

/-- R120: the checksum is the value of the two loops on 16-bit truncated naturals. -/
def Obligations.Crc16IsTheTwoLoopDefinition : Prop :=
  ∀ bytes : List Byte, (crc16 bytes).toNat = crcReference bytes 0xFFFF

/-- R125 (its linearity clause). -/
def Obligations.CrcByteIsLinear : Prop :=
  ∀ (acc acc' : Word16) (b b' : Byte), crcByte (acc ^^^ acc') (b ^^^ b') = crcByte acc b ^^^ crcByte acc' b'

/-- R126 (a): changing any single byte changes the checksum. -/
def Obligations.CrcSeesEveryOneByteChange : Prop :=
  ∀ (front back : List Byte) (b b' : Byte), b ≠ b' → crc16 (front ++ b :: back) ≠ crc16 (front ++ b' :: back)

/-- R126 (b): appending the checksum high byte first gives zero. -/
def Obligations.CrcResidueIsZeroHighByteFirst : Prop :=
  ∀ bytes : List Byte,
    crc16 (bytes ++ [(crc16 bytes).extractLsb' 8 8, (crc16 bytes).extractLsb' 0 8]) = 0

/-! ### Frame Codec -/

/-- R131, R132: `ENCODE` with up to 254 data bytes completes with the frame; with more it is `FrameTooLarge`, nothing but
`ERR` being written. It changes nothing else. -/
def Obligations.EncodeCompletesUpTo254 : Prop :=
  ∀ (sa cmd : Byte) (data : List Byte) (s : State),
    (data.length ≤ 254 →
      exec (.encode sa cmd data) s = .next (s.hostDone
        { Results.blank with
          err := some 0, rLen := some (BitVec.ofNat 11 (6 + data.length)), rBuf := wireFrame 0x7F sa (cmd :: data) })) ∧
    (254 < data.length → exec (.encode sa cmd data) s = .next (s.hostErr 0x8))

/-- R140, R143, R146: `DECODE` of a frame with a right checksum, any start byte and any trailing bytes, returns exactly
the declared slice. -/
def Obligations.DecodeCompletesOnGoodFrames : Prop :=
  ∀ (st sa : Byte) (payload extra : List Byte) (s : State), payload.length ≤ 255 →
    exec (.decode (wireFrame st sa payload ++ extra)) s = .next (s.hostDone
      { Results.blank with
        err := some 0, start := some st, seqAddr := some sa, fLen := some (BitVec.ofNat 8 payload.length),
        rLen := some (BitVec.ofNat 11 payload.length), rBuf := payload,
        crc := some (crc16 (sa :: BitVec.ofNat 8 payload.length :: payload)) })

/-- R141, R142, R149: `Truncated` without a length byte, `Truncated` before any checksum when the declared length is not
there, `ChecksumMismatch` when the two bytes after the payload differ; only `ERR` is written. -/
def Obligations.DecodeRaisesItsErrors : Prop :=
  (∀ (raw : List Byte) (s : State), raw.length < 3 → exec (.decode raw) s = .next (s.hostErr 0x5)) ∧
  (∀ (st sa len : Byte) (rest : List Byte) (s : State), rest.length < 2 + len.toNat →
    exec (.decode (st :: sa :: len :: rest)) s = .next (s.hostErr 0x5)) ∧
  (∀ (st sa len lo hi : Byte) (payload extra : List Byte) (s : State), payload.length = len.toNat →
    lo.toNat + 256 * hi.toNat ≠ (crc16 (sa :: len :: payload)).toNat →
    exec (.decode (st :: sa :: len :: payload ++ lo :: hi :: extra)) s = .next (s.hostErr 0x6))

/-- R150: every frame the encoder produces decodes to what was encoded, whatever bytes follow it. -/
def Obligations.EncodeThenDecodeRecovers : Prop :=
  ∀ (sa cmd : Byte) (data : List Byte) (s : State), data.length ≤ 254 →
    ∃ t, exec (.encode sa cmd data) s = .next t ∧
      ∀ (extra : List Byte) (u : State),
        exec (.decode (t.host.res.rBuf ++ extra)) u = .next (u.hostDone
          { Results.blank with
            err := some 0, start := some 0x7F, seqAddr := some sa, fLen := some (BitVec.ofNat 8 (1 + data.length)),
            rLen := some (BitVec.ofNat 11 (1 + data.length)), rBuf := cmd :: data,
            crc := some (crc16 (sa :: BitVec.ofNat 8 (1 + data.length) :: cmd :: data)) })

/-- R151 (its clauses but the one about the length byte): one changed byte at offset 1, in the payload or in the
checksum is a `ChecksumMismatch`; a changed start marker is not detected. -/
def Obligations.DamagedFramesFailChecksum : Prop :=
  ∀ (sa cmd new : Byte) (data : List Byte) (k : Nat) (s : State), data.length ≤ 254 →
    (k = 1 ∨ 3 ≤ k) → k < (wireFrame 0x7F sa (cmd :: data)).length →
    (wireFrame 0x7F sa (cmd :: data))[k]? ≠ some new →
    exec (.decode ((wireFrame 0x7F sa (cmd :: data)).set k new)) s = .next (s.hostErr 0x6) ∧
    ∃ t, exec (.decode ((wireFrame 0x7F sa (cmd :: data)).set 0 new)) s = .next t ∧
      t.host.res.err = some 0 ∧ t.host.res.start = some new ∧ t.host.res.rBuf = cmd :: data

/-! ### Sequence Controller -/

/-- R160: `OP = 0x4` is `SEQ_NEXT`; with the lock free it returns the bit before the flip, flips `SEQ`, and changes
nothing else; otherwise it is not enabled. -/
def Obligations.SeqNextCompletes : Prop :=
  (∀ (syncCmd : Byte) (r : OperandRegs), r.op = 0x4 → decode syncCmd r = .ok .seqNext) ∧
  ∀ s : State,
    (s.lock = .free →
      exec .seqNext s = .next
        { s.hostDone { Results.blank with err := some 0, bit := some s.seq } with seq := s.seq ^^^ 1 }) ∧
    (s.lock ≠ .free → exec .seqNext s = .next s)

/-- R162: `OP = 0x5` is `SEQ_RESET`; with the lock free it sets `SEQ` to `EXPECT_0`, whatever it was, and changes nothing
else; otherwise it is not enabled. -/
def Obligations.SeqResetCompletes : Prop :=
  (∀ (syncCmd : Byte) (r : OperandRegs), r.op = 0x5 → decode syncCmd r = .ok .seqReset) ∧
  ∀ s : State,
    (s.lock = .free → exec .seqReset s = .next { s.hostDone { Results.blank with err := some 0 } with seq := 0 }) ∧
    (s.lock ≠ .free → exec .seqReset s = .next s)

/-- R164, R171: while an exchange is in progress `SEQ_NEXT`, `SEQ_RESET`, `SEND` and `SYNC` hold: nothing changes. -/
def Obligations.LockedOperationsHold : Prop :=
  ∀ (s : State) (cmd : Byte) (data : List Byte), s.lock ≠ .free →
    exec .seqNext s = .next s ∧ exec .seqReset s = .next s ∧
    exec (.send cmd data) s = .next s ∧ exec (.sync data) s = .next s

/-- R161: along `N` consecutive `SEQ_NEXT` operations the bits alternate from the first, and `SEQ` ends accordingly. -/
def Obligations.SeqNextAlternates : Prop :=
  ∀ (n : Nat) (run : Nat → State), (run 0).lock = .free →
    (∀ k < n, exec .seqNext (run k) = .next (run (k + 1))) →
    (∀ k < n, (run (k + 1)).host.res.bit = some ((run 0).seq ^^^ BitVec.ofNat 1 k)) ∧
      (run n).seq = (run 0).seq ^^^ BitVec.ofNat 1 n

/-- R163: `SEQ_RESET` then `SEQ_NEXT` returns 0 and leaves `EXPECT_1`. -/
def Obligations.ResetThenNextYieldsZero : Prop :=
  ∀ s : State, s.lock = .free →
    ∃ t u, exec .seqReset s = .next t ∧ exec .seqNext t = .next u ∧ u.host.res.bit = some 0 ∧ u.seq = 1

/-! ### Command Channel -/

/-- R175, R176, R178, R180: phase 1 of an ordinary `SEND`. The frame carries the bit `SEQ` held, `SEQ` flips, one
`TWrite` is made, and the exchange awaits its reply with the lock held. -/
def Obligations.SendStartsExchange : Prop :=
  ∀ (cmd : Byte) (data : List Byte) (s : State) (n : Nat), s.lock = .free → s.connected = true →
    cmd ≠ s.par.syncCmd → data.length ≤ 254 →
    s.nextWrite (commandWire s.seq s.cfg.addr cmd data) = .wOk n →
    exec (.send cmd data) s = .next
      { s with
        seq := s.seq ^^^ 1, lock := .host, xph := .awaitReply, xBit := some s.seq,
        txBuf := commandWire s.seq s.cfg.addr cmd data, hostPending := false, inp := s.inp.afterWrite,
        calls := s.calls ++ [.write .host (commandWire s.seq s.cfg.addr cmd data) (.wOk n)] }

/-- R174: phase 1 of the synchronization command, whether presented as `SYNC` or as `SEND` with `A_CMD = SYNC_CMD`:
`SEQ` becomes `EXPECT_0`, the frame carries bit 0, and `SEQ` is not flipped. -/
def Obligations.SyncStartsExchange : Prop :=
  ∀ (i : Instr) (data : List Byte) (s : State) (n : Nat), (i = .sync data ∨ i = .send s.par.syncCmd data) →
    s.lock = .free → s.connected = true → data.length ≤ 254 →
    s.nextWrite (commandWire 0 s.cfg.addr s.par.syncCmd data) = .wOk n →
    exec i s = .next
      { s with
        seq := 0, lock := .host, xph := .awaitReply, xBit := some 0,
        txBuf := commandWire 0 s.cfg.addr s.par.syncCmd data, hostPending := false, inp := s.inp.afterWrite,
        calls := s.calls ++ [.write .host (commandWire 0 s.cfg.addr s.par.syncCmd data) (.wOk n)] }

/-- R172: without a connection the exchange ends with `NotConnected`; `SEQ` is unchanged, the lock is free and there is
no transport call. -/
def Obligations.SendNeedsConnection : Prop :=
  ∀ (i : Instr) (cmd : Byte) (data : List Byte) (s : State), (i = .sync data ∨ i = .send cmd data) →
    s.lock = .free → s.connected = false → exec i s = .next (s.hostErr 0x1)

/-- R177: more than 254 data bytes end the exchange with `FrameTooLarge` after the sequence step; nothing is written to
the transport. -/
def Obligations.SendTooLargeConsumesBit : Prop :=
  ∀ (cmd : Byte) (data : List Byte) (s : State), s.lock = .free → s.connected = true → 254 < data.length →
    (cmd ≠ s.par.syncCmd → exec (.send cmd data) s = .next { s.hostErr 0x8 with seq := s.seq ^^^ 1 }) ∧
    exec (.send s.par.syncCmd data) s = .next { s.hostErr 0x8 with seq := 0 } ∧
    exec (.sync data) s = .next { s.hostErr 0x8 with seq := 0 }

/-- R178, R179, R262: a failed write ends the exchange in the same step, with `SEQ` changed, the lock free and no
`TRead`. -/
def Obligations.SendWriteFailure : Prop :=
  ∀ (cmd : Byte) (data : List Byte) (s : State), s.lock = .free → s.connected = true → data.length ≤ 254 →
    (cmd ≠ s.par.syncCmd → s.nextWrite (commandWire s.seq s.cfg.addr cmd data) = .wErr →
      exec (.send cmd data) s = .next
        { s.hostErr 0x2 with
          seq := s.seq ^^^ 1, txBuf := [], inp := s.inp.afterWrite,
          calls := s.calls ++ [.write .host (commandWire s.seq s.cfg.addr cmd data) .wErr] }) ∧
    ∀ i : Instr, (i = .sync data ∨ i = .send s.par.syncCmd data) →
      s.nextWrite (commandWire 0 s.cfg.addr s.par.syncCmd data) = .wErr →
      exec i s = .next
        { s.hostErr 0x2 with
          seq := 0, txBuf := [], inp := s.inp.afterWrite,
          calls := s.calls ++ [.write .host (commandWire 0 s.cfg.addr s.par.syncCmd data) .wErr] }

/-- R184, R186, R187: phase 2 with a reply whose checksum is right. The host's registers get the status, the reply data
and the frame's fields, whatever the start byte, the sequence bit, the address and the trailing bytes are. -/
def Obligations.ReplyCompletesHostSend : Prop :=
  ∀ (st sa status : Byte) (data extra : List Byte) (b : BitVec 1) (s : State), s.nextTurn = .host →
    s.lock = .host → s.xph = .awaitReply → s.xBit = some b → data.length ≤ 254 →
    s.turned.nextRead = .rOk (wireFrame st sa (status :: data) ++ extra) →
    step s = .next ((s.turned.exchangeOver .host).hostDone (replyRecord s.par.status b st sa status data))

/-- R181, R182, R183, R190: every reply that is none ends the host's exchange with its error; only `ERR` is written, the
lock is free, and `SEQ` stays as phase 1 left it. -/
def Obligations.BadReplyEndsHostSend : Prop :=
  ∀ (s : State) (e : ErrKind) (code : BitVec 4), s.nextTurn = .host → s.lock = .host → s.xph = .awaitReply →
    BadReply s.turned.nextRead e code → step s = .next ((s.turned.exchangeOver .host).hostErr code)

/-- R170: two turns of the host run a whole `SEND`: the frame is written, the reply read, the results are in the host's
registers, `SEQ` has flipped once and the lock is free. -/
def Obligations.WholeSendTakesTwoHostTurns : Prop :=
  ∀ (cmd st sa status : Byte) (data reply extra : List Byte) (turns : List Turn) (n : Nat) (s : State),
    s.inp.turns = .host :: .host :: turns → s.lock = .free → s.hostPending = true → s.connected = true →
    decode s.par.syncCmd s.host.opnd = .ok (.send cmd data) → data.length ≤ 254 → reply.length ≤ 254 →
    s.nextWrite (commandWire s.seq s.cfg.addr cmd data) = .wOk n → s.inp.writes ≠ [] →
    s.nextRead = .rOk (wireFrame st sa (status :: reply) ++ extra) → s.inp.reads ≠ [] →
    ∃ t u, step s = .next t ∧ step t = .next u ∧
      u.host.res = replyRecord s.par.status s.seq st sa status reply ∧ u.seq = s.seq ^^^ 1 ∧
      u.lock = .free ∧ u.xph = .idle ∧ u.txBuf = [] ∧ u.rxBuf = [] ∧ u.inp.turns = turns ∧
      u.calls = s.calls ++
        [.write .host (commandWire s.seq s.cfg.addr cmd data) (.wOk n),
         .read .host (.rOk (wireFrame st sa (status :: reply) ++ extra))]

/-- R188: the turn of the agent whose exchange awaits its reply always ends the exchange: one `TRead`, `LOCK = FREE`,
`XPH = IDLE`, and `ERR` written. -/
def Obligations.ExchangeEndReleasesLock : Prop :=
  ∀ s : State, s.xph = .awaitReply →
    (s.lock = .host → s.nextTurn = .host →
      ∃ t, step s = .next t ∧ t.lock = .free ∧ t.xph = .idle ∧ t.host.res.err ≠ none ∧
        t.calls = s.calls ++ [.read .host s.turned.nextRead]) ∧
    (s.lock = .poller → s.nextTurn = .poller →
      ∃ t, step s = .next t ∧ t.lock = .free ∧ t.xph = .idle ∧ t.poller.res.err ≠ none ∧
        t.calls = s.calls ++ [.read .poller s.turned.nextRead])

/-- R191: with no other command and no sequence operation between them, the bits of two commands differ unless one is a
synchronization command, whose bit and whose successor's bit are 0; the first command after a state whose `SEQ` is as reset
leaves it carries 0; and that bit is the one on the wire, in the only frame a command writes. -/
def Obligations.BitsAlternateAcrossCommands : Prop :=
  (∀ (s t m : State) (c d : Byte), s.startsCommand = some c → step s = .next t → RunWhile State.LeavesSequence t m →
    m.startsCommand = some d →
    (d = m.par.syncCmd → m.bitFor d = 0) ∧ (c = s.par.syncCmd → m.bitFor d = 0) ∧
      (c ≠ s.par.syncCmd → d ≠ m.par.syncCmd → m.bitFor d ≠ s.bitFor c)) ∧
  (∀ (s m : State) (d : Byte), s.seq = State.reset.seq → RunWhile State.LeavesSequence s m →
    m.startsCommand = some d → m.bitFor d = 0) ∧
  (∀ (s t : State) (c : Byte), s.startsCommand = some c → step s = .next t →
    t.calls = s.calls ∨
      ∃ agent data ans, t.calls = s.calls ++ [.write agent (commandWire (s.bitFor c) s.cfg.addr c data) ans])

/-! ### Response Decoder -/

/-- R200, R203, R206: `DEC_IDENT` on 12 bytes or more. -/
def Obligations.DecIdentCompletes : Prop :=
  ∀ (t f0 f1 f2 f3 c0 c1 c2 d0 d1 d2 v : Byte) (extra : List Byte) (s : State),
    exec (.decIdent ([t, f0, f1, f2, f3, c0, c1, c2, d0, d1, d2, v] ++ extra)) s = .next (s.hostDone
      { Results.blank with
        err := some 0, uCode := some t, uType := some (unitTypeOf s.par.units t).code,
        uFw := some #v[f0, f1, f2, f3], uCc := some #v[c0, c1, c2],
        uMult := some (BitVec.ofNat 15 (d2.toNat * 100 + d1.toNat * 10 + d0.toNat * 1)), uPver := some v })

/-- R201, R211, R221: a payload shorter than its shape is `MalformedResponse`, and only `ERR` is written. -/
def Obligations.ShortPayloadsAreMalformed : Prop :=
  (∀ (p : List Byte) (s : State), p.length < 12 → exec (.decIdent p) s = .next (s.hostErr 0x7)) ∧
  (∀ (ver : Byte) (s : State), exec (.decChan ver []) s = .next (s.hostErr 0x7)) ∧
  (∀ (ver n : Byte) (rest : List Byte) (s : State), ver.toNat < 6 → rest.length < n.toNat →
    exec (.decChan ver (n :: rest)) s = .next (s.hostErr 0x7)) ∧
  (∀ (ver n : Byte) (rest : List Byte) (s : State), 6 ≤ ver.toNat → rest.length < 8 * n.toNat →
    exec (.decChan ver (n :: rest)) s = .next (s.hostErr 0x7)) ∧
  (∀ (p : List Byte) (s : State), p.length < 12 → exec (.decSetup p) s = .next (s.hostErr 0x7)) ∧
  (∀ (front rest : List Byte) (n : Byte) (s : State), front.length = 11 → rest.length < 4 + 2 * n.toNat →
    exec (.decSetup (front ++ n :: rest)) s = .next (s.hostErr 0x7))

/-- R204, R205: the value multiplier is the digit arithmetic on natural numbers, without a range check and without
overflow, in both shapes that carry it. -/
def Obligations.DigitMultiplierIsExact : Prop :=
  ∀ (front rest : List Byte) (d0 d1 d2 : Byte) (i : Instr) (s t : State), front.length = 8 →
    (i = .decIdent (front ++ d0 :: d1 :: d2 :: rest) ∨ i = .decSetup (front ++ d0 :: d1 :: d2 :: rest)) →
    exec i s = .next t → t.host.res.err = some 0 →
    ∃ m, t.host.res.uMult = some m ∧ m.toNat = d2.toNat * 100 + d1.toNat * 10 + d0.toNat * 1 ∧ m.toNat ≤ 28305

/-- R213: `DEC_CHAN` below version 6. -/
def Obligations.DecChanLegacyCompletes : Prop :=
  ∀ (ver n : Byte) (values extra : List Byte) (s : State), ver.toNat < 6 → values.length = n.toNat →
    exec (.decChan ver (n :: values ++ extra)) s = .next (s.hostDone
      { Results.blank with err := some 0, tN := some n, tVb := values, tVal := values.map (·.setWidth 32) })

/-- R214, R215, in both layouts of R97: `DEC_CHAN` from version 6 on, the channels being 8-byte records or three
arrays. -/
def Obligations.DecChanExtendedCompletes : Prop :=
  ∀ (ver n : Byte) (channels : List ChannelRecord) (extra : List Byte) (s : State), 6 ≤ ver.toNat →
    channels.length = n.toNat →
    (s.par.layout = .interleaved →
      exec (.decChan ver (n :: channels.flatMap ChannelRecord.bytes ++ extra)) s =
        .next (s.hostDone (channelRecordResults n channels))) ∧
    (s.par.layout = .arrays →
      exec (.decChan ver (n :: (channels.map (·.valueByte) ++ channels.flatMap (·.country.toList) ++
          channels.flatMap (·.full.toList) ++ extra))) s =
        .next (s.hostDone (channelRecordResults n channels)))

/-- R220, R222, R223: `DEC_SETUP` on 16 + 2n bytes or more. -/
def Obligations.DecSetupCompletes : Prop :=
  ∀ (t f0 f1 f2 f3 c0 c1 c2 d0 d1 d2 n r0 r1 r2 v : Byte) (values flags extra : List Byte) (s : State),
    values.length = n.toNat → flags.length = n.toNat →
    exec (.decSetup ([t, f0, f1, f2, f3, c0, c1, c2, d0, d1, d2, n] ++ values ++ flags ++ [r0, r1, r2, v] ++ extra)) s =
      .next (s.hostDone
        { Results.blank with
          err := some 0, uCode := some t, uType := some (unitTypeOf s.par.units t).code,
          uFw := some #v[f0, f1, f2, f3], uCc := some #v[c0, c1, c2],
          uMult := some (BitVec.ofNat 15 (d2.toNat * 100 + d1.toNat * 10 + d0.toNat * 1)), uPver := some v,
          tN := some n, tVb := values, tSec := flags, sRmult := some (r2 ++ r1 ++ r0) })

/-- R92, R94: the status of a byte is the number of the row whose value it equals, and 8 when no row matches; its unit
type is the number of its code, and 4 for an unrecognised one. The parameters are pairwise distinct (R8). -/
def Obligations.StatusAndUnitTypeClassification : Prop :=
  (∀ (c : StatusCodes) (b : Byte), c.wf = true →
    (∀ k < 8, (statusOf c b).code = BitVec.ofNat 4 k ↔
      [0xF0, c.fail, c.commandNotKnown, c.wrongNoParameters, c.parameterOutOfRange, c.commandCannotBeProcessed,
        c.softwareError, c.keyNotSet][k]? = some b) ∧
    ((statusOf c b).code = 8 ↔
      b ∉ [0xF0, c.fail, c.commandNotKnown, c.wrongNoParameters, c.parameterOutOfRange, c.commandCannotBeProcessed,
        c.softwareError, c.keyNotSet])) ∧
  (∀ (u : UnitCodes) (b : Byte), u.wf = true →
    ((unitTypeOf u b).code = 0 ↔ b = 0x00) ∧ ((unitTypeOf u b).code = 1 ↔ b = u.hopper) ∧
    ((unitTypeOf u b).code = 2 ↔ b = u.payout) ∧ ((unitTypeOf u b).code = 3 ↔ b = u.combined) ∧
    ((unitTypeOf u b).code = 4 ↔ b ∉ [0x00, u.hopper, u.payout, u.combined]))

/-! ### Event Poller -/

/-- R240, R241: `OP = 0xC` is `POLL_START` and `OP = 0xD` is `POLL_STOP`; the one sets and the other clears `POLL_RUN`,
each writing `ERR`, in every state, and changes nothing else: neither waits for nor interrupts an exchange of the
poller. -/
def Obligations.PollOperationsComplete : Prop :=
  (∀ (syncCmd : Byte) (r : OperandRegs), (r.op = 0xC → decode syncCmd r = .ok .pollStart) ∧
    (r.op = 0xD → decode syncCmd r = .ok .pollStop)) ∧
  ∀ s : State,
    exec .pollStart s = .next { s.hostDone { Results.blank with err := some 0 } with pollRun := .running } ∧
    exec .pollStop s = .next { s.hostDone { Results.blank with err := some 0 } with pollRun := .stopped }

/-- R243, R244: tick-begin is phase 1 of a `SEND` with `POLL_CMD` and no data by the poller. -/
def Obligations.TickBeginStartsPoll : Prop :=
  ∀ (s : State) (n : Nat), s.nextTurn = .poller → s.pollRun = .running → s.lock = .free → s.connected = true →
    s.par.pollCmd ≠ s.par.syncCmd →
    s.turned.nextWrite (commandWire s.seq s.cfg.addr s.par.pollCmd []) = .wOk n →
    ∃ r : OperandRegs, r.op = 0x6 ∧ r.cmd = s.par.pollCmd ∧ r.a = [] ∧
      step s = .next
        { s with
          seq := s.seq ^^^ 1, lock := .poller, xph := .awaitReply, xBit := some s.seq,
          txBuf := commandWire s.seq s.cfg.addr s.par.pollCmd [], inp := s.turned.inp.afterWrite,
          poller := { s.poller with opnd := r },
          calls := s.calls ++ [.write .poller (commandWire s.seq s.cfg.addr s.par.pollCmd []) (.wOk n)] }

/-- R244: a tick-begin that fails ends the tick with the lock free and publishes the error; `NotConnected` leaves `SEQ`
and the transport alone. -/
def Obligations.TickBeginFailurePublishes : Prop :=
  ∀ s : State, s.nextTurn = .poller → s.pollRun = .running → s.lock = .free →
    (s.connected = false → ∃ t, step s = .next t ∧ t.sink = s.sink ++ [.pollError .notConnected] ∧ t.seq = s.seq ∧
      t.lock = .free ∧ t.xph = s.xph ∧ t.calls = s.calls ∧ t.pollRun = .running ∧ t.host = s.host) ∧
    (s.connected = true → s.par.pollCmd ≠ s.par.syncCmd →
      s.turned.nextWrite (commandWire s.seq s.cfg.addr s.par.pollCmd []) = .wErr →
      ∃ t, step s = .next t ∧ t.sink = s.sink ++ [.pollError .writeFailed] ∧ t.seq = s.seq ^^^ 1 ∧
        t.lock = .free ∧ t.xph = s.xph ∧ t.pollRun = .running ∧ t.host = s.host ∧
        t.calls = s.calls ++ [.write .poller (commandWire s.seq s.cfg.addr s.par.pollCmd []) .wErr])

/-- R247: a tick-end with status OK publishes the events of the reply data in payload order, each with the number of
argument bytes `EVENT_ARGLEN` gives its code, and `PollMalformed` when the data ends inside an event's arguments. -/
def Obligations.TickEndPublishesEvents : Prop :=
  ∀ (st sa : Byte) (events : List (Byte × List Byte)) (tail extra : List Byte) (recs : List SinkRec) (b : BitVec 1)
    (s : State), s.nextTurn = .poller → s.lock = .poller → s.xph = .awaitReply → s.xBit = some b →
    (∀ e ∈ events, e.2.length = argLen s.par e.1) →
    ((tail = [] ∧ recs = []) ∨
      ∃ code rest, tail = code :: rest ∧ rest.length < argLen s.par code ∧
        recs = [.pollMalformed code rest.length (argLen s.par code)]) →
    ((events.flatMap fun e => e.1 :: e.2) ++ tail).length ≤ 254 →
    s.turned.nextRead = .rOk (wireFrame st sa (0xF0 :: ((events.flatMap fun e => e.1 :: e.2) ++ tail)) ++ extra) →
    step s = .next ((s.turned.exchangeOver .poller).pollerDone
      (replyRecord s.par.status b st sa 0xF0 ((events.flatMap fun e => e.1 :: e.2) ++ tail))
      ((events.map fun e => .event e.1 e.2) ++ recs))

/-- R245, R246: a tick-end whose exchange fails publishes the error and nothing else; one whose status is not OK
publishes the status and decodes no events; neither changes `POLL_RUN`. -/
def Obligations.TickEndReportsErrorOrStatus : Prop :=
  (∀ (s : State) (e : ErrKind) (code : BitVec 4), s.nextTurn = .poller → s.lock = .poller → s.xph = .awaitReply →
    BadReply s.turned.nextRead e code →
    step s = .next ((s.turned.exchangeOver .poller).pollerDone { Results.blank with err := some code } [.pollError e])) ∧
  (∀ (st sa status : Byte) (data extra : List Byte) (b : BitVec 1) (s : State), s.nextTurn = .poller →
    s.lock = .poller → s.xph = .awaitReply → s.xBit = some b → status ≠ 0xF0 → data.length ≤ 254 →
    s.turned.nextRead = .rOk (wireFrame st sa (status :: data) ++ extra) →
    step s = .next ((s.turned.exchangeOver .poller).pollerDone (replyRecord s.par.status b st sa status data)
      [.pollStatus (statusOf s.par.status status).code status]))

/-- R29, R250: a step of the poller never changes the host's port. -/
def Obligations.PollerLeavesHostPort : Prop :=
  ∀ s : State, s.nextTurn = .poller →
    ∃ t, step s = .next t ∧ t.host = s.host ∧ t.hostPending = s.hostPending ∧ t.pollRun = s.pollRun

/-- R249: while `POLL_RUN` is `STOPPED` the transport sees no `TWrite` from the poller, and at most one `TRead`. -/
def Obligations.StoppedPollerWritesNothing : Prop :=
  ∀ s u : State, RunWhile (fun m => m.pollRun = .stopped) s u →
    ∃ new, u.calls = s.calls ++ new ∧
      (∀ c ∈ new, ∀ bytes ans, c ≠ .write .poller bytes ans) ∧
      (new.filter fun c => match c with
        | .read .poller _ => true
        | _ => false).length ≤ 1

/-! ### The whole machine -/

/-- R25: only `POLL_START` and `POLL_STOP` change `POLL_RUN`. -/
def Obligations.OnlyPollOperationsChangePollRun : Prop :=
  ∀ s t : State, step s = .next t → t.pollRun ≠ s.pollRun →
    (s.Runs .pollStart ∧ t.pollRun = .running) ∨ (s.Runs .pollStop ∧ t.pollRun = .stopped)

/-- R23: `SEQ` is written only by `SEQ_NEXT`, `SEQ_RESET` and the phase 1 of a `SEND`. -/
def Obligations.OnlySequenceStepsChangeSeq : Prop :=
  ∀ s t : State, step s = .next t → t.seq ≠ s.seq →
    s.lock = .free ∧ (s.Runs .seqNext ∨ s.Runs .seqReset ∨ ∃ c, s.startsCommand = some c)

/-- R24: `LOCK` and `XPH` are changed only by the two phases of an exchange: taken by the agent whose phase 1 it is,
released by that agent's own phase 2. -/
def Obligations.OnlyExchangesChangeLock : Prop :=
  ∀ s t : State, step s = .next t → (t.lock ≠ s.lock ∨ t.xph ≠ s.xph) →
    (s.lock = .free ∧ (∃ c, s.startsCommand = some c) ∧ t.xph = .awaitReply ∧
      (s.nextTurn = .host ∧ t.lock = .host ∨ s.nextTurn = .poller ∧ t.lock = .poller)) ∨
    (s.xph = .awaitReply ∧ t.lock = .free ∧ t.xph = .idle ∧
      (s.nextTurn = .host ∧ s.lock = .host ∨ s.nextTurn = .poller ∧ s.lock = .poller))

/-- R30, R32: no step writes the configuration registers or the parameters, and the engine never writes `CONNECTED`. -/
def Obligations.ConfigurationNeverChanges : Prop :=
  ∀ s t : State, step s = .next t →
    t.cfg = s.cfg ∧ t.par = s.par ∧
      ((∀ b, s.nextTurn ≠ .setConnected b) → t.connected = s.connected) ∧
      (∀ b, s.nextTurn = .setConnected b → t = { s.turned with connected := b })

/-- The host's turn runs the operation its port presents: the step is `exec` of the decoded operation on the state whose
turn has been taken. That a step is one turn, and that a presented operation waits for the host's, is the model's choice
(log 8, 9). -/
def Obligations.StepRunsPresentedOperation : Prop :=
  ∀ (i : Instr) (s : State), s.Runs i → i.wellFormed s.par.syncCmd = true ∧ step s = exec i s.turned

/-- R100: the operation table, with the operands each operation reads; a code it does not list is refused (R101). -/
def Obligations.OperationTableSelects : Prop :=
  ∀ (syncCmd : Byte) (r : OperandRegs), r.a.length ≤ 1024 →
    (r.op = 0x1 → decode syncCmd r = .ok (.crc16 r.a)) ∧
    (r.op = 0x2 → decode syncCmd r = .ok (.encode r.seqAddr r.cmd r.a)) ∧
    (r.op = 0x3 → decode syncCmd r = .ok (.decode r.a)) ∧
    (r.op = 0x4 → decode syncCmd r = .ok .seqNext) ∧
    (r.op = 0x5 → decode syncCmd r = .ok .seqReset) ∧
    (r.op = 0x6 → r.cmd ≠ syncCmd → decode syncCmd r = .ok (.send r.cmd r.a)) ∧
    (r.op = 0x6 → r.cmd = syncCmd → decode syncCmd r = .ok (.sync r.a)) ∧
    (r.op = 0x8 → decode syncCmd r = .ok (.decIdent r.a)) ∧
    (r.op = 0x9 → decode syncCmd r = .ok (.decChan r.ver r.a)) ∧
    (r.op = 0xA → decode syncCmd r = .ok (.decSetup r.a)) ∧
    (r.op = 0xC → decode syncCmd r = .ok .pollStart) ∧
    (r.op = 0xD → decode syncCmd r = .ok .pollStop) ∧
    (r.op ∈ ([0x0, 0x7, 0xB, 0xE, 0xF] : List (BitVec 4)) → decode syncCmd r = .error .illegalOp)

/-- R101: starting an unassigned code completes with `IllegalOp`: `ERR` alone is written and nothing else changes. That
the other result registers then hold no value is read from R27 (log 21). -/
def Obligations.UnassignedCodesAreIllegal : Prop :=
  ∀ s : State, s.nextTurn = .host → s.hostAwaits = false → s.hostPending = true →
    s.host.opnd.op ∈ ([0x0, 0x7, 0xB, 0xE, 0xF] : List (BitVec 4)) → step s = .next (s.turned.hostErr 0xF)

/-- Decoding the operand registers that present a well-formed operation gives it back, with every operand. -/
def Obligations.DecodeOfEncode : Prop :=
  ∀ (syncCmd : Byte) (i : Instr), i.wellFormed syncCmd = true → decode syncCmd (encode syncCmd i) = .ok i

/-- R26: an operand the operation does not read is ignored; the ones it reads, and the code, are those of its encoding. -/
def Obligations.DecodeReadsOnlyItsOperands : Prop :=
  ∀ (syncCmd : Byte) (r : OperandRegs) (i : Instr), decode syncCmd r = .ok i →
    i.wellFormed syncCmd = true ∧ (operandsRead i).Agree r (encode syncCmd i) ∧
      ∀ r', (operandsRead i).Agree r r' → decode syncCmd r' = .ok i

/-- A few words of the operation table, with the codes of R100. The model's choice: that a word of the table stands for
`OP` with zero operands (log 1, DESIGN CHOICE), and that word 0110 reads as `SEND`, its zero `A_CMD` not being the default
`SYNC_CMD` (log 1; log 12, PRESUMED). -/
def Obligations.SampleCodesDecode : Prop :=
  decodeTableWord 8 0b0001 = some (.crc16 []) ∧ decodeTableWord 8 0b0100 = some .seqNext ∧
  decodeTableWord 8 0b0110 = some (.send 0 []) ∧ decodeTableWord 8 0b1010 = some (.decSetup []) ∧
  decodeTableWord 8 0b1101 = some .pollStop ∧ decodeTableWord 8 0b0111 = none ∧
  decode 0x11 { op := 0b0110, seqAddr := 0, cmd := 0x11, ver := 0, a := [] } = .ok (.sync [])

/-- R37: what reset leaves: the four persistent fields, the supplied configuration, no result and no buffer with a
value. -/
def Obligations.ResetStateValues : Prop :=
  State.reset.seq = 0 ∧ State.reset.lock = .free ∧ State.reset.xph = .idle ∧ State.reset.pollRun = .stopped ∧
  State.reset.cfg =
    { port := Config.cfgPort, baud := Config.cfgBaud, addr := Config.cfgAddr, timeout := Config.cfgTimeout } ∧
  State.reset.host.res = Results.blank ∧ State.reset.poller.res = Results.blank ∧
  State.reset.txBuf = [] ∧ State.reset.rxBuf = []

/-- Reset satisfies the machine's invariant, the constraints of R8 on the parameters among it. The defaults and the
legal unit codes of the reset parameters are the model's choice (log 12), and so are the empty operand strings (log 4)
and the field that holds an exchange's bit, which holds none (log 10). -/
def Obligations.ResetHasInvariant : Prop := State.reset.Inv

/-- Every step keeps the machine's invariant, from every state that has it: the parameters stay legal (R8), the lock is
held exactly during an exchange (R24), `TXBUF` holds the frame written with the exchange's bit (R34), the transport calls
stay serialised (R67), every result register group is consistent (R27, R28) and every buffer within its capacity (R50).
That the bit of the exchange, R170's `b`, is a field that holds a bit exactly during an exchange is the model's choice
(log 10). -/
def Obligations.StepKeepsInvariant : Prop :=
  ∀ s t : State, s.Inv → step s = .next t → t.Inv

/-- Every step keeps: the lock is held exactly while an exchange awaits its reply (R24, R179, R180, R188), and exactly
then the field `xBit` holds a bit, R170's `b` of that exchange. The second half is the model's choice (log 10, DESIGN
CHOICE): R24 says nothing of such a bit. -/
def Obligations.LockInvariantIsKept : Prop :=
  ∀ s t : State, s.LockInv → step s = .next t → t.LockInv

/-- R60, R67, R171: from every state whose history is serialised, every step keeps it so: the transport calls are
`(TWrite TRead?)*`, each `TRead` by the agent of the `TWrite` before it, and the open exchange is the lock holder's. -/
def Obligations.TransportCallsStaySerialised : Prop :=
  ∀ s t : State, s.SerialInv → step s = .next t → t.SerialInv

/-- No operation faults or is refused in any state; and from a state with the invariant every step answers a next
state. That a presented string longer than its buffer is the one thing refused is the model's choice (log 16). -/
def Obligations.NothingStopsTheMachine : Prop :=
  (∀ (i : Instr) (s : State), ∃ t, exec i s = .next t) ∧ ∀ s : State, s.Inv → ∃ t, step s = .next t

/-- R29: what is in the poller's port and on the sink never reaches the host or the rest of the engine: two states that
differ there alone step to outcomes that differ there alone. -/
def Obligations.HostCannotSeePollerPort : Prop :=
  ∀ s t : State, s.SameButPoller t →
    (∀ s', step s = .next s' → ∃ t', step t = .next t' ∧ s'.SameButPoller t') ∧
    (∀ r, step s = .refused r → step t = .refused r)

/-- R68: a pure operation completes in every state, with results that depend on its operands and the parameters alone,
and changes nothing but the host's result registers. -/
def Obligations.PureOperationsIgnoreEngineState : Prop :=
  ∀ (i : Instr) (s s' : State), isPure i = true → s.par = s'.par →
    ∃ r, exec i s = .next (s.hostDone r) ∧ exec i s' = .next (s'.hostDone r)

/-- R72: a lock-free operation of the host and the end of the poller's exchange can be taken in either order. -/
def Obligations.TickEndCommutesWithLockFreeOperations : Prop :=
  ∀ (i : Instr) (s t u : State), (isPure i = true ∨ i = .pollStart ∨ i = .pollStop) → s.lock = .poller →
    s.xph = .awaitReply → exec i s = .next t → runTurn .poller s = .next u →
    ∃ v, exec i u = .next v ∧ runTurn .poller t = .next v

/-- R312: in a quiescent state no step of the host or the poller is enabled. That such a turn only uses up the turn, and
that the host's coming operations are a queue, is the model's choice (log 8, 9). -/
def Obligations.QuiescentStateIsStill : Prop :=
  ∀ s : State, s.Quiescent → (s.nextTurn = .host ∨ s.nextTurn = .poller) → step s = .next s.turned
end

