-- ==== Sys2Proof/Laws/State.lean ====
section
/-! SUPPORT. One lemma per field per update of State, each true by rfl, so that no later proof unfolds an update; and the
composite operations as one record update each. -/

namespace Sys2Proof.Machine

/-! ### setSeq -/

@[simp] theorem setSeq_seq (v : BitVec 1) (s : State) : (s.setSeq v).seq = v := rfl
@[simp] theorem setSeq_lock (v : BitVec 1) (s : State) : (s.setSeq v).lock = s.lock := rfl
@[simp] theorem setSeq_xph (v : BitVec 1) (s : State) : (s.setSeq v).xph = s.xph := rfl
@[simp] theorem setSeq_pollRun (v : BitVec 1) (s : State) : (s.setSeq v).pollRun = s.pollRun := rfl
@[simp] theorem setSeq_cfg (v : BitVec 1) (s : State) : (s.setSeq v).cfg = s.cfg := rfl
@[simp] theorem setSeq_connected (v : BitVec 1) (s : State) : (s.setSeq v).connected = s.connected := rfl
@[simp] theorem setSeq_host (v : BitVec 1) (s : State) : (s.setSeq v).host = s.host := rfl
@[simp] theorem setSeq_poller (v : BitVec 1) (s : State) : (s.setSeq v).poller = s.poller := rfl
@[simp] theorem setSeq_txBuf (v : BitVec 1) (s : State) : (s.setSeq v).txBuf = s.txBuf := rfl
@[simp] theorem setSeq_rxBuf (v : BitVec 1) (s : State) : (s.setSeq v).rxBuf = s.rxBuf := rfl
@[simp] theorem setSeq_xBit (v : BitVec 1) (s : State) : (s.setSeq v).xBit = s.xBit := rfl
@[simp] theorem setSeq_par (v : BitVec 1) (s : State) : (s.setSeq v).par = s.par := rfl
@[simp] theorem setSeq_hostPending (v : BitVec 1) (s : State) : (s.setSeq v).hostPending = s.hostPending := rfl
@[simp] theorem setSeq_inp (v : BitVec 1) (s : State) : (s.setSeq v).inp = s.inp := rfl
@[simp] theorem setSeq_calls (v : BitVec 1) (s : State) : (s.setSeq v).calls = s.calls := rfl
@[simp] theorem setSeq_sink (v : BitVec 1) (s : State) : (s.setSeq v).sink = s.sink := rfl

/-! ### setLock -/

@[simp] theorem setLock_seq (v : Lock) (s : State) : (s.setLock v).seq = s.seq := rfl
@[simp] theorem setLock_lock (v : Lock) (s : State) : (s.setLock v).lock = v := rfl
@[simp] theorem setLock_xph (v : Lock) (s : State) : (s.setLock v).xph = s.xph := rfl
@[simp] theorem setLock_pollRun (v : Lock) (s : State) : (s.setLock v).pollRun = s.pollRun := rfl
@[simp] theorem setLock_cfg (v : Lock) (s : State) : (s.setLock v).cfg = s.cfg := rfl
@[simp] theorem setLock_connected (v : Lock) (s : State) : (s.setLock v).connected = s.connected := rfl
@[simp] theorem setLock_host (v : Lock) (s : State) : (s.setLock v).host = s.host := rfl
@[simp] theorem setLock_poller (v : Lock) (s : State) : (s.setLock v).poller = s.poller := rfl
@[simp] theorem setLock_txBuf (v : Lock) (s : State) : (s.setLock v).txBuf = s.txBuf := rfl
@[simp] theorem setLock_rxBuf (v : Lock) (s : State) : (s.setLock v).rxBuf = s.rxBuf := rfl
@[simp] theorem setLock_xBit (v : Lock) (s : State) : (s.setLock v).xBit = s.xBit := rfl
@[simp] theorem setLock_par (v : Lock) (s : State) : (s.setLock v).par = s.par := rfl
@[simp] theorem setLock_hostPending (v : Lock) (s : State) : (s.setLock v).hostPending = s.hostPending := rfl
@[simp] theorem setLock_inp (v : Lock) (s : State) : (s.setLock v).inp = s.inp := rfl
@[simp] theorem setLock_calls (v : Lock) (s : State) : (s.setLock v).calls = s.calls := rfl
@[simp] theorem setLock_sink (v : Lock) (s : State) : (s.setLock v).sink = s.sink := rfl

/-! ### setPollRun -/

@[simp] theorem setPollRun_seq (v : PollRun) (s : State) : (s.setPollRun v).seq = s.seq := rfl
@[simp] theorem setPollRun_lock (v : PollRun) (s : State) : (s.setPollRun v).lock = s.lock := rfl
@[simp] theorem setPollRun_xph (v : PollRun) (s : State) : (s.setPollRun v).xph = s.xph := rfl
@[simp] theorem setPollRun_pollRun (v : PollRun) (s : State) : (s.setPollRun v).pollRun = v := rfl
@[simp] theorem setPollRun_cfg (v : PollRun) (s : State) : (s.setPollRun v).cfg = s.cfg := rfl
@[simp] theorem setPollRun_connected (v : PollRun) (s : State) : (s.setPollRun v).connected = s.connected := rfl
@[simp] theorem setPollRun_host (v : PollRun) (s : State) : (s.setPollRun v).host = s.host := rfl
@[simp] theorem setPollRun_poller (v : PollRun) (s : State) : (s.setPollRun v).poller = s.poller := rfl
@[simp] theorem setPollRun_txBuf (v : PollRun) (s : State) : (s.setPollRun v).txBuf = s.txBuf := rfl
@[simp] theorem setPollRun_rxBuf (v : PollRun) (s : State) : (s.setPollRun v).rxBuf = s.rxBuf := rfl
@[simp] theorem setPollRun_xBit (v : PollRun) (s : State) : (s.setPollRun v).xBit = s.xBit := rfl
@[simp] theorem setPollRun_par (v : PollRun) (s : State) : (s.setPollRun v).par = s.par := rfl
@[simp] theorem setPollRun_hostPending (v : PollRun) (s : State) : (s.setPollRun v).hostPending = s.hostPending := rfl
@[simp] theorem setPollRun_inp (v : PollRun) (s : State) : (s.setPollRun v).inp = s.inp := rfl
@[simp] theorem setPollRun_calls (v : PollRun) (s : State) : (s.setPollRun v).calls = s.calls := rfl
@[simp] theorem setPollRun_sink (v : PollRun) (s : State) : (s.setPollRun v).sink = s.sink := rfl

/-! ### setConnected -/

@[simp] theorem setConnected_seq (v : Bool) (s : State) : (s.setConnected v).seq = s.seq := rfl
@[simp] theorem setConnected_lock (v : Bool) (s : State) : (s.setConnected v).lock = s.lock := rfl
@[simp] theorem setConnected_xph (v : Bool) (s : State) : (s.setConnected v).xph = s.xph := rfl
@[simp] theorem setConnected_pollRun (v : Bool) (s : State) : (s.setConnected v).pollRun = s.pollRun := rfl
@[simp] theorem setConnected_cfg (v : Bool) (s : State) : (s.setConnected v).cfg = s.cfg := rfl
@[simp] theorem setConnected_connected (v : Bool) (s : State) : (s.setConnected v).connected = v := rfl
@[simp] theorem setConnected_host (v : Bool) (s : State) : (s.setConnected v).host = s.host := rfl
@[simp] theorem setConnected_poller (v : Bool) (s : State) : (s.setConnected v).poller = s.poller := rfl
@[simp] theorem setConnected_txBuf (v : Bool) (s : State) : (s.setConnected v).txBuf = s.txBuf := rfl
@[simp] theorem setConnected_rxBuf (v : Bool) (s : State) : (s.setConnected v).rxBuf = s.rxBuf := rfl
@[simp] theorem setConnected_xBit (v : Bool) (s : State) : (s.setConnected v).xBit = s.xBit := rfl
@[simp] theorem setConnected_par (v : Bool) (s : State) : (s.setConnected v).par = s.par := rfl
@[simp] theorem setConnected_hostPending (v : Bool) (s : State) : (s.setConnected v).hostPending = s.hostPending := rfl
@[simp] theorem setConnected_inp (v : Bool) (s : State) : (s.setConnected v).inp = s.inp := rfl
@[simp] theorem setConnected_calls (v : Bool) (s : State) : (s.setConnected v).calls = s.calls := rfl
@[simp] theorem setConnected_sink (v : Bool) (s : State) : (s.setConnected v).sink = s.sink := rfl

/-! ### setTx -/

@[simp] theorem setTx_seq (v : Memory) (s : State) : (s.setTx v).seq = s.seq := rfl
@[simp] theorem setTx_lock (v : Memory) (s : State) : (s.setTx v).lock = s.lock := rfl
@[simp] theorem setTx_xph (v : Memory) (s : State) : (s.setTx v).xph = s.xph := rfl
@[simp] theorem setTx_pollRun (v : Memory) (s : State) : (s.setTx v).pollRun = s.pollRun := rfl
@[simp] theorem setTx_cfg (v : Memory) (s : State) : (s.setTx v).cfg = s.cfg := rfl
@[simp] theorem setTx_connected (v : Memory) (s : State) : (s.setTx v).connected = s.connected := rfl
@[simp] theorem setTx_host (v : Memory) (s : State) : (s.setTx v).host = s.host := rfl
@[simp] theorem setTx_poller (v : Memory) (s : State) : (s.setTx v).poller = s.poller := rfl
@[simp] theorem setTx_txBuf (v : Memory) (s : State) : (s.setTx v).txBuf = v := rfl
@[simp] theorem setTx_rxBuf (v : Memory) (s : State) : (s.setTx v).rxBuf = s.rxBuf := rfl
@[simp] theorem setTx_xBit (v : Memory) (s : State) : (s.setTx v).xBit = s.xBit := rfl
@[simp] theorem setTx_par (v : Memory) (s : State) : (s.setTx v).par = s.par := rfl
@[simp] theorem setTx_hostPending (v : Memory) (s : State) : (s.setTx v).hostPending = s.hostPending := rfl
@[simp] theorem setTx_inp (v : Memory) (s : State) : (s.setTx v).inp = s.inp := rfl
@[simp] theorem setTx_calls (v : Memory) (s : State) : (s.setTx v).calls = s.calls := rfl
@[simp] theorem setTx_sink (v : Memory) (s : State) : (s.setTx v).sink = s.sink := rfl

/-! ### setRx -/

@[simp] theorem setRx_seq (v : Memory) (s : State) : (s.setRx v).seq = s.seq := rfl
@[simp] theorem setRx_lock (v : Memory) (s : State) : (s.setRx v).lock = s.lock := rfl
@[simp] theorem setRx_xph (v : Memory) (s : State) : (s.setRx v).xph = s.xph := rfl
@[simp] theorem setRx_pollRun (v : Memory) (s : State) : (s.setRx v).pollRun = s.pollRun := rfl
@[simp] theorem setRx_cfg (v : Memory) (s : State) : (s.setRx v).cfg = s.cfg := rfl
@[simp] theorem setRx_connected (v : Memory) (s : State) : (s.setRx v).connected = s.connected := rfl
@[simp] theorem setRx_host (v : Memory) (s : State) : (s.setRx v).host = s.host := rfl
@[simp] theorem setRx_poller (v : Memory) (s : State) : (s.setRx v).poller = s.poller := rfl
@[simp] theorem setRx_txBuf (v : Memory) (s : State) : (s.setRx v).txBuf = s.txBuf := rfl
@[simp] theorem setRx_rxBuf (v : Memory) (s : State) : (s.setRx v).rxBuf = v := rfl
@[simp] theorem setRx_xBit (v : Memory) (s : State) : (s.setRx v).xBit = s.xBit := rfl
@[simp] theorem setRx_par (v : Memory) (s : State) : (s.setRx v).par = s.par := rfl
@[simp] theorem setRx_hostPending (v : Memory) (s : State) : (s.setRx v).hostPending = s.hostPending := rfl
@[simp] theorem setRx_inp (v : Memory) (s : State) : (s.setRx v).inp = s.inp := rfl
@[simp] theorem setRx_calls (v : Memory) (s : State) : (s.setRx v).calls = s.calls := rfl
@[simp] theorem setRx_sink (v : Memory) (s : State) : (s.setRx v).sink = s.sink := rfl

/-! ### setInp -/

@[simp] theorem setInp_seq (v : Inputs) (s : State) : (s.setInp v).seq = s.seq := rfl
@[simp] theorem setInp_lock (v : Inputs) (s : State) : (s.setInp v).lock = s.lock := rfl
@[simp] theorem setInp_xph (v : Inputs) (s : State) : (s.setInp v).xph = s.xph := rfl
@[simp] theorem setInp_pollRun (v : Inputs) (s : State) : (s.setInp v).pollRun = s.pollRun := rfl
@[simp] theorem setInp_cfg (v : Inputs) (s : State) : (s.setInp v).cfg = s.cfg := rfl
@[simp] theorem setInp_connected (v : Inputs) (s : State) : (s.setInp v).connected = s.connected := rfl
@[simp] theorem setInp_host (v : Inputs) (s : State) : (s.setInp v).host = s.host := rfl
@[simp] theorem setInp_poller (v : Inputs) (s : State) : (s.setInp v).poller = s.poller := rfl
@[simp] theorem setInp_txBuf (v : Inputs) (s : State) : (s.setInp v).txBuf = s.txBuf := rfl
@[simp] theorem setInp_rxBuf (v : Inputs) (s : State) : (s.setInp v).rxBuf = s.rxBuf := rfl
@[simp] theorem setInp_xBit (v : Inputs) (s : State) : (s.setInp v).xBit = s.xBit := rfl
@[simp] theorem setInp_par (v : Inputs) (s : State) : (s.setInp v).par = s.par := rfl
@[simp] theorem setInp_hostPending (v : Inputs) (s : State) : (s.setInp v).hostPending = s.hostPending := rfl
@[simp] theorem setInp_inp (v : Inputs) (s : State) : (s.setInp v).inp = v := rfl
@[simp] theorem setInp_calls (v : Inputs) (s : State) : (s.setInp v).calls = s.calls := rfl
@[simp] theorem setInp_sink (v : Inputs) (s : State) : (s.setInp v).sink = s.sink := rfl

/-! ### setExchange -/

@[simp] theorem setExchange_seq (x : Xph) (b : Option (BitVec 1)) (s : State) : (s.setExchange x b).seq = s.seq := rfl
@[simp] theorem setExchange_lock (x : Xph) (b : Option (BitVec 1)) (s : State) : (s.setExchange x b).lock = s.lock := rfl
@[simp] theorem setExchange_xph (x : Xph) (b : Option (BitVec 1)) (s : State) : (s.setExchange x b).xph = x := rfl
@[simp] theorem setExchange_pollRun (x : Xph) (b : Option (BitVec 1)) (s : State) : (s.setExchange x b).pollRun = s.pollRun := rfl
@[simp] theorem setExchange_cfg (x : Xph) (b : Option (BitVec 1)) (s : State) : (s.setExchange x b).cfg = s.cfg := rfl
@[simp] theorem setExchange_connected (x : Xph) (b : Option (BitVec 1)) (s : State) : (s.setExchange x b).connected = s.connected := rfl
@[simp] theorem setExchange_host (x : Xph) (b : Option (BitVec 1)) (s : State) : (s.setExchange x b).host = s.host := rfl
@[simp] theorem setExchange_poller (x : Xph) (b : Option (BitVec 1)) (s : State) : (s.setExchange x b).poller = s.poller := rfl
@[simp] theorem setExchange_txBuf (x : Xph) (b : Option (BitVec 1)) (s : State) : (s.setExchange x b).txBuf = s.txBuf := rfl
@[simp] theorem setExchange_rxBuf (x : Xph) (b : Option (BitVec 1)) (s : State) : (s.setExchange x b).rxBuf = s.rxBuf := rfl
@[simp] theorem setExchange_xBit (x : Xph) (b : Option (BitVec 1)) (s : State) : (s.setExchange x b).xBit = b := rfl
@[simp] theorem setExchange_par (x : Xph) (b : Option (BitVec 1)) (s : State) : (s.setExchange x b).par = s.par := rfl
@[simp] theorem setExchange_hostPending (x : Xph) (b : Option (BitVec 1)) (s : State) : (s.setExchange x b).hostPending = s.hostPending := rfl
@[simp] theorem setExchange_inp (x : Xph) (b : Option (BitVec 1)) (s : State) : (s.setExchange x b).inp = s.inp := rfl
@[simp] theorem setExchange_calls (x : Xph) (b : Option (BitVec 1)) (s : State) : (s.setExchange x b).calls = s.calls := rfl
@[simp] theorem setExchange_sink (x : Xph) (b : Option (BitVec 1)) (s : State) : (s.setExchange x b).sink = s.sink := rfl

/-! ### logCall -/

@[simp] theorem logCall_seq (c : Call) (s : State) : (s.logCall c).seq = s.seq := rfl
@[simp] theorem logCall_lock (c : Call) (s : State) : (s.logCall c).lock = s.lock := rfl
@[simp] theorem logCall_xph (c : Call) (s : State) : (s.logCall c).xph = s.xph := rfl
@[simp] theorem logCall_pollRun (c : Call) (s : State) : (s.logCall c).pollRun = s.pollRun := rfl
@[simp] theorem logCall_cfg (c : Call) (s : State) : (s.logCall c).cfg = s.cfg := rfl
@[simp] theorem logCall_connected (c : Call) (s : State) : (s.logCall c).connected = s.connected := rfl
@[simp] theorem logCall_host (c : Call) (s : State) : (s.logCall c).host = s.host := rfl
@[simp] theorem logCall_poller (c : Call) (s : State) : (s.logCall c).poller = s.poller := rfl
@[simp] theorem logCall_txBuf (c : Call) (s : State) : (s.logCall c).txBuf = s.txBuf := rfl
@[simp] theorem logCall_rxBuf (c : Call) (s : State) : (s.logCall c).rxBuf = s.rxBuf := rfl
@[simp] theorem logCall_xBit (c : Call) (s : State) : (s.logCall c).xBit = s.xBit := rfl
@[simp] theorem logCall_par (c : Call) (s : State) : (s.logCall c).par = s.par := rfl
@[simp] theorem logCall_hostPending (c : Call) (s : State) : (s.logCall c).hostPending = s.hostPending := rfl
@[simp] theorem logCall_inp (c : Call) (s : State) : (s.logCall c).inp = s.inp := rfl
@[simp] theorem logCall_calls (c : Call) (s : State) : (s.logCall c).calls = s.calls ++ [c] := rfl
@[simp] theorem logCall_sink (c : Call) (s : State) : (s.logCall c).sink = s.sink := rfl

/-! ### publish -/

@[simp] theorem publish_seq (r : List SinkRec) (s : State) : (s.publish r).seq = s.seq := rfl
@[simp] theorem publish_lock (r : List SinkRec) (s : State) : (s.publish r).lock = s.lock := rfl
@[simp] theorem publish_xph (r : List SinkRec) (s : State) : (s.publish r).xph = s.xph := rfl
@[simp] theorem publish_pollRun (r : List SinkRec) (s : State) : (s.publish r).pollRun = s.pollRun := rfl
@[simp] theorem publish_cfg (r : List SinkRec) (s : State) : (s.publish r).cfg = s.cfg := rfl
@[simp] theorem publish_connected (r : List SinkRec) (s : State) : (s.publish r).connected = s.connected := rfl
@[simp] theorem publish_host (r : List SinkRec) (s : State) : (s.publish r).host = s.host := rfl
@[simp] theorem publish_poller (r : List SinkRec) (s : State) : (s.publish r).poller = s.poller := rfl
@[simp] theorem publish_txBuf (r : List SinkRec) (s : State) : (s.publish r).txBuf = s.txBuf := rfl
@[simp] theorem publish_rxBuf (r : List SinkRec) (s : State) : (s.publish r).rxBuf = s.rxBuf := rfl
@[simp] theorem publish_xBit (r : List SinkRec) (s : State) : (s.publish r).xBit = s.xBit := rfl
@[simp] theorem publish_par (r : List SinkRec) (s : State) : (s.publish r).par = s.par := rfl
@[simp] theorem publish_hostPending (r : List SinkRec) (s : State) : (s.publish r).hostPending = s.hostPending := rfl
@[simp] theorem publish_inp (r : List SinkRec) (s : State) : (s.publish r).inp = s.inp := rfl
@[simp] theorem publish_calls (r : List SinkRec) (s : State) : (s.publish r).calls = s.calls := rfl
@[simp] theorem publish_sink (r : List SinkRec) (s : State) : (s.publish r).sink = s.sink ++ r := rfl

/-! ### present -/

@[simp] theorem present_seq (r : OperandRegs) (s : State) : (s.present r).seq = s.seq := rfl
@[simp] theorem present_lock (r : OperandRegs) (s : State) : (s.present r).lock = s.lock := rfl
@[simp] theorem present_xph (r : OperandRegs) (s : State) : (s.present r).xph = s.xph := rfl
@[simp] theorem present_pollRun (r : OperandRegs) (s : State) : (s.present r).pollRun = s.pollRun := rfl
@[simp] theorem present_cfg (r : OperandRegs) (s : State) : (s.present r).cfg = s.cfg := rfl
@[simp] theorem present_connected (r : OperandRegs) (s : State) : (s.present r).connected = s.connected := rfl
@[simp] theorem present_host (r : OperandRegs) (s : State) : (s.present r).host = { s.host with opnd := r } := rfl
@[simp] theorem present_poller (r : OperandRegs) (s : State) : (s.present r).poller = s.poller := rfl
@[simp] theorem present_txBuf (r : OperandRegs) (s : State) : (s.present r).txBuf = s.txBuf := rfl
@[simp] theorem present_rxBuf (r : OperandRegs) (s : State) : (s.present r).rxBuf = s.rxBuf := rfl
@[simp] theorem present_xBit (r : OperandRegs) (s : State) : (s.present r).xBit = s.xBit := rfl
@[simp] theorem present_par (r : OperandRegs) (s : State) : (s.present r).par = s.par := rfl
@[simp] theorem present_hostPending (r : OperandRegs) (s : State) : (s.present r).hostPending = true := rfl
@[simp] theorem present_inp (r : OperandRegs) (s : State) : (s.present r).inp = s.inp := rfl
@[simp] theorem present_calls (r : OperandRegs) (s : State) : (s.present r).calls = s.calls := rfl
@[simp] theorem present_sink (r : OperandRegs) (s : State) : (s.present r).sink = s.sink := rfl

/-! ### setOpnd -/

@[simp] theorem setOpnd_seq (a : Agent) (r : OperandRegs) (s : State) : (s.setOpnd a r).seq = s.seq := by cases a <;> rfl
@[simp] theorem setOpnd_lock (a : Agent) (r : OperandRegs) (s : State) : (s.setOpnd a r).lock = s.lock := by cases a <;> rfl
@[simp] theorem setOpnd_xph (a : Agent) (r : OperandRegs) (s : State) : (s.setOpnd a r).xph = s.xph := by cases a <;> rfl
@[simp] theorem setOpnd_pollRun (a : Agent) (r : OperandRegs) (s : State) : (s.setOpnd a r).pollRun = s.pollRun := by cases a <;> rfl
@[simp] theorem setOpnd_cfg (a : Agent) (r : OperandRegs) (s : State) : (s.setOpnd a r).cfg = s.cfg := by cases a <;> rfl
@[simp] theorem setOpnd_connected (a : Agent) (r : OperandRegs) (s : State) : (s.setOpnd a r).connected = s.connected := by cases a <;> rfl
@[simp] theorem setOpnd_host_host (r : OperandRegs) (s : State) : (s.setOpnd .host r).host = { s.host with opnd := r } := rfl
@[simp] theorem setOpnd_poller_host (r : OperandRegs) (s : State) : (s.setOpnd .poller r).host = s.host := rfl
@[simp] theorem setOpnd_host_poller (r : OperandRegs) (s : State) : (s.setOpnd .host r).poller = s.poller := rfl
@[simp] theorem setOpnd_poller_poller (r : OperandRegs) (s : State) : (s.setOpnd .poller r).poller = { s.poller with opnd := r } := rfl
@[simp] theorem setOpnd_txBuf (a : Agent) (r : OperandRegs) (s : State) : (s.setOpnd a r).txBuf = s.txBuf := by cases a <;> rfl
@[simp] theorem setOpnd_rxBuf (a : Agent) (r : OperandRegs) (s : State) : (s.setOpnd a r).rxBuf = s.rxBuf := by cases a <;> rfl
@[simp] theorem setOpnd_xBit (a : Agent) (r : OperandRegs) (s : State) : (s.setOpnd a r).xBit = s.xBit := by cases a <;> rfl
@[simp] theorem setOpnd_par (a : Agent) (r : OperandRegs) (s : State) : (s.setOpnd a r).par = s.par := by cases a <;> rfl
@[simp] theorem setOpnd_hostPending (a : Agent) (r : OperandRegs) (s : State) : (s.setOpnd a r).hostPending = s.hostPending := by cases a <;> rfl
@[simp] theorem setOpnd_inp (a : Agent) (r : OperandRegs) (s : State) : (s.setOpnd a r).inp = s.inp := by cases a <;> rfl
@[simp] theorem setOpnd_calls (a : Agent) (r : OperandRegs) (s : State) : (s.setOpnd a r).calls = s.calls := by cases a <;> rfl
@[simp] theorem setOpnd_sink (a : Agent) (r : OperandRegs) (s : State) : (s.setOpnd a r).sink = s.sink := by cases a <;> rfl

/-! ### setRes -/

@[simp] theorem setRes_seq (a : Agent) (r : Results) (s : State) : (s.setRes a r).seq = s.seq := by cases a <;> rfl
@[simp] theorem setRes_lock (a : Agent) (r : Results) (s : State) : (s.setRes a r).lock = s.lock := by cases a <;> rfl
@[simp] theorem setRes_xph (a : Agent) (r : Results) (s : State) : (s.setRes a r).xph = s.xph := by cases a <;> rfl
@[simp] theorem setRes_pollRun (a : Agent) (r : Results) (s : State) : (s.setRes a r).pollRun = s.pollRun := by cases a <;> rfl
@[simp] theorem setRes_cfg (a : Agent) (r : Results) (s : State) : (s.setRes a r).cfg = s.cfg := by cases a <;> rfl
@[simp] theorem setRes_connected (a : Agent) (r : Results) (s : State) : (s.setRes a r).connected = s.connected := by cases a <;> rfl
@[simp] theorem setRes_host_host (r : Results) (s : State) : (s.setRes .host r).host = { s.host with res := r } := rfl
@[simp] theorem setRes_poller_host (r : Results) (s : State) : (s.setRes .poller r).host = s.host := rfl
@[simp] theorem setRes_host_poller (r : Results) (s : State) : (s.setRes .host r).poller = s.poller := rfl
@[simp] theorem setRes_poller_poller (r : Results) (s : State) : (s.setRes .poller r).poller = { s.poller with res := r } := rfl
@[simp] theorem setRes_txBuf (a : Agent) (r : Results) (s : State) : (s.setRes a r).txBuf = s.txBuf := by cases a <;> rfl
@[simp] theorem setRes_rxBuf (a : Agent) (r : Results) (s : State) : (s.setRes a r).rxBuf = s.rxBuf := by cases a <;> rfl
@[simp] theorem setRes_xBit (a : Agent) (r : Results) (s : State) : (s.setRes a r).xBit = s.xBit := by cases a <;> rfl
@[simp] theorem setRes_par (a : Agent) (r : Results) (s : State) : (s.setRes a r).par = s.par := by cases a <;> rfl
@[simp] theorem setRes_hostPending (a : Agent) (r : Results) (s : State) : (s.setRes a r).hostPending = s.hostPending := by cases a <;> rfl
@[simp] theorem setRes_inp (a : Agent) (r : Results) (s : State) : (s.setRes a r).inp = s.inp := by cases a <;> rfl
@[simp] theorem setRes_calls (a : Agent) (r : Results) (s : State) : (s.setRes a r).calls = s.calls := by cases a <;> rfl
@[simp] theorem setRes_sink (a : Agent) (r : Results) (s : State) : (s.setRes a r).sink = s.sink := by cases a <;> rfl

/-! ### begun -/

@[simp] theorem begun_seq (a : Agent) (s : State) : (s.begun a).seq = s.seq := by cases a <;> rfl
@[simp] theorem begun_lock (a : Agent) (s : State) : (s.begun a).lock = s.lock := by cases a <;> rfl
@[simp] theorem begun_xph (a : Agent) (s : State) : (s.begun a).xph = s.xph := by cases a <;> rfl
@[simp] theorem begun_pollRun (a : Agent) (s : State) : (s.begun a).pollRun = s.pollRun := by cases a <;> rfl
@[simp] theorem begun_cfg (a : Agent) (s : State) : (s.begun a).cfg = s.cfg := by cases a <;> rfl
@[simp] theorem begun_connected (a : Agent) (s : State) : (s.begun a).connected = s.connected := by cases a <;> rfl
@[simp] theorem begun_host (a : Agent) (s : State) : (s.begun a).host = s.host := by cases a <;> rfl
@[simp] theorem begun_poller (a : Agent) (s : State) : (s.begun a).poller = s.poller := by cases a <;> rfl
@[simp] theorem begun_txBuf (a : Agent) (s : State) : (s.begun a).txBuf = s.txBuf := by cases a <;> rfl
@[simp] theorem begun_rxBuf (a : Agent) (s : State) : (s.begun a).rxBuf = s.rxBuf := by cases a <;> rfl
@[simp] theorem begun_xBit (a : Agent) (s : State) : (s.begun a).xBit = s.xBit := by cases a <;> rfl
@[simp] theorem begun_par (a : Agent) (s : State) : (s.begun a).par = s.par := by cases a <;> rfl
@[simp] theorem begun_host_hostPending (s : State) : (s.begun .host).hostPending = false := rfl
@[simp] theorem begun_poller_hostPending (s : State) : (s.begun .poller).hostPending = s.hostPending := rfl
@[simp] theorem begun_inp (a : Agent) (s : State) : (s.begun a).inp = s.inp := by cases a <;> rfl
@[simp] theorem begun_calls (a : Agent) (s : State) : (s.begun a).calls = s.calls := by cases a <;> rfl
@[simp] theorem begun_sink (a : Agent) (s : State) : (s.begun a).sink = s.sink := by cases a <;> rfl

/-! ### The composite operations, each as one record update -/

theorem complete_host (r : Results) (s : State) :
    s.complete .host r = { s with host := { s.host with res := r }, hostPending := false } := rfl

theorem complete_poller (r : Results) (s : State) :
    s.complete .poller r = { s with poller := { s.poller with res := r } } := rfl

/-- `raise` on the host port writes `ERR` alone and leaves the engine as it is (R270). -/
theorem raise_host (e : ErrKind) (s : State) :
    s.raise .host e =
      { s with host := { s.host with res := { Results.blank with err := some e.code } }, hostPending := false } := rfl

/-- `raise` on the poller's port (R270, R271). -/
theorem raise_poller (e : ErrKind) (s : State) :
    s.raise .poller e =
      { s with poller := { s.poller with res := { Results.blank with err := some e.code } } } := rfl

theorem tWrite_eq (a : Agent) (s : State) :
    s.tWrite a = { s with inp := s.inp.afterWrite, calls := s.calls ++ [.write a s.txBuf (s.nextWrite s.txBuf)] } := rfl

theorem tRead_eq (a : Agent) (s : State) :
    s.tRead a = { s with inp := s.inp.afterRead, calls := s.calls ++ [.read a s.nextRead] } := rfl

/-- After a `TWrite` the oracle has seen it (R62). -/
@[simp] theorem tWrite_history (a : Agent) (s : State) :
    (s.tWrite a).history = s.history ++ [.write s.txBuf (s.nextWrite s.txBuf)] := by
  simp [State.history, tWrite_eq, Call.onPort]

/-- After a `TRead` the oracle has seen it (R62). -/
@[simp] theorem tRead_history (a : Agent) (s : State) : (s.tRead a).history = s.history ++ [.read s.nextRead] := by
  simp [State.history, tRead_eq, Call.onPort]

theorem release_eq (s : State) : s.release = { s with lock := .free } := rfl

theorem endExchange_eq (s : State) :
    s.endExchange = { s with lock := .free, txBuf := [], rxBuf := [], xph := .idle, xBit := none } := rfl

theorem present_eq (r : OperandRegs) (s : State) :
    s.present r = { s with host := { s.host with opnd := r }, hostPending := true } := rfl

end Sys2Proof.Machine
end

