-- ==== Sys2Proof/Laws/Bytes.lean ====
section
/-! SUPPORT. What the byte-string and checksum functions answer. -/

namespace Sys2Proof.Machine

@[simp] theorem evaluated_eq {α : Type} (w : Word16) (k : Word16 → α) : evaluated w k = k w := by
  unfold evaluated
  split
  · rename_i h
    rw [BitVec.eq_of_toNat_eq (x := w) (y := 0#16) (by simpa using h)]
    rfl
  · rfl

theorem crcFold_eq_foldl (bytes : List Byte) (acc : Word16) : crcFold bytes acc = bytes.foldl crcByte acc := by
  induction bytes generalizing acc with
  | nil => rfl
  | cons b rest ih => simp [crcFold, ih]

/-- R121: the checksum is the left fold of the byte step. -/
theorem crc16_eq_foldl (bytes : List Byte) : crc16 bytes = bytes.foldl crcByte Config.crcInit :=
  crcFold_eq_foldl bytes _

theorem crc16_append (xs ys : List Byte) : crc16 (xs ++ ys) = crcFold ys (crc16 xs) := by
  simp [crc16_eq_foldl, crcFold_eq_foldl]

@[simp] theorem checksumBytes_length (c : Word16) : (checksumBytes c).length = 2 := rfl

/-- The two checksum bytes, read little-endian, are the checksum (R85, R144). -/
theorem lowByte_add_highByte (c : Word16) : (lowByte c).toNat + 256 * (highByte c).toNat = c.toNat := by
  simp only [lowByte, highByte, BitVec.extractLsb'_toNat]
  have := c.isLt
  simp only [Nat.shiftRight_eq_div_pow]
  omega

@[simp] theorem byteAt_zero (b : Byte) (rest : List Byte) : byteAt (b :: rest) 0 = b := rfl

@[simp] theorem byteAt_succ (b : Byte) (rest : List Byte) (i : Nat) : byteAt (b :: rest) (i + 1) = byteAt rest i := rfl

@[simp] theorem byteAt_append_length (xs : List Byte) (y : Byte) (ys : List Byte) (i : Nat) (h : i = xs.length) :
    byteAt (xs ++ y :: ys) i = y := by
  simp [byteAt, h]

theorem byteAt_append_left (xs ys : List Byte) (i : Nat) (h : i < xs.length) : byteAt (xs ++ ys) i = byteAt xs i := by
  simp [byteAt, List.getD_eq_getElem?_getD, List.getElem?_append_left h]

theorem byteAt_append_right (xs ys : List Byte) (i : Nat) (h : xs.length ≤ i) :
    byteAt (xs ++ ys) i = byteAt ys (i - xs.length) := by
  simp [byteAt, List.getD_eq_getElem?_getD, List.getElem?_append_right h]

theorem slice_length (b : List Byte) (off n : Nat) (h : off + n ≤ b.length) : (slice b off n).length = n := by
  simp only [slice, List.length_take, List.length_drop]
  omega

/-- A slice that starts where `xs` ends and takes `ys` is `ys`. -/
theorem slice_append (xs ys zs : List Byte) (off n : Nat) (ho : off = xs.length) (hn : n = ys.length) :
    slice (xs ++ (ys ++ zs)) off n = ys := by
  simp [slice, ho, hn]

/-- A slice inside `xs` does not see what follows. -/
theorem slice_append_left (xs ys : List Byte) (off n : Nat) (h : off + n ≤ xs.length) :
    slice (xs ++ ys) off n = slice xs off n := by
  simp only [slice, List.drop_append]
  rw [List.take_append_of_le_length (by simp only [List.length_drop]; omega)]

/-- A little-endian read inside `xs` does not see what follows. -/
theorem memRead_append_left (xs ys : List Byte) (off n : Nat) (h : off + n ≤ xs.length) :
    memRead (xs ++ ys) off n = memRead xs off n := by
  induction n generalizing off with
  | zero => rfl
  | succ n ih =>
    simp only [memRead]
    rw [byteAt_append_left xs ys off (by omega), ih (off + 1) (by omega)]

/-- A little-endian read of `n` bytes is below `256 ^ n`. -/
theorem memRead_lt (b : List Byte) (off n : Nat) : memRead b off n < 256 ^ n := by
  induction n generalizing off with
  | zero => simp [memRead]
  | succ n ih =>
    have h1 := ih (off + 1)
    have h2 : (byteAt b off).toNat < 256 := (byteAt b off).isLt
    simp only [memRead, Nat.pow_succ]
    omega

end Sys2Proof.Machine
end

