-- ==== Sys2Proof/Laws/Codec.lean ====
section
/-! SUPPORT. What encoding and decoding a frame can do. -/

namespace Sys2Proof.Machine

@[simp] theorem commandBody_length (sa cmd : Byte) (data : List Byte) :
    (commandBody sa cmd data).length = 3 + data.length := by
  simp [commandBody]
  omega

/-- R86: a command frame is six bytes longer than its data. -/
@[simp] theorem commandFrame_length (sa cmd : Byte) (data : List Byte) :
    (commandFrame sa cmd data).length = 6 + data.length := by
  simp [commandFrame]
  omega

/-- R131, R132: encoding succeeds exactly up to 254 data bytes; the 1024-byte test is never the one that fails. -/
theorem encodeFrame_eq (sa cmd : Byte) (data : List Byte) :
    encodeFrame sa cmd data =
      if data.length ≤ Config.dataMax then .ok (commandFrame sa cmd data) else .error .frameTooLarge := by
  unfold encodeFrame
  by_cases h : data.length ≤ Config.dataMax
  · have h' := h
    simp only [Config.dataMax] at h'
    rw [if_neg (by omega), if_neg (by simp only [Config.maxFrame]; omega), if_pos h]
  · rw [if_pos (by omega), if_neg h]

/-- A command frame fits its buffer (R50, R86). -/
theorem commandFrame_wf (sa cmd : Byte) (data : List Byte) (h : data.length ≤ Config.dataMax) :
    Memory.wf (commandFrame sa cmd data) = true := by
  simp only [Config.dataMax] at h
  simp [Memory.wf, fitsBuffer, Config.bufMax]
  omega

/-- Everything decoding can answer (R140, R149): the first test that fails, or the frame. -/
theorem decodeFrame_cases (raw : List Byte) :
    (raw.length < 3 ∧ decodeFrame raw = .error .truncated) ∨
    (3 ≤ raw.length ∧ raw.length < 5 + (byteAt raw 2).toNat ∧ decodeFrame raw = .error .truncated) ∨
    (5 + (byteAt raw 2).toNat ≤ raw.length ∧
      (crc16 (slice raw 1 (2 + (byteAt raw 2).toNat))).toNat ≠ memRead raw (3 + (byteAt raw 2).toNat) 2 ∧
      decodeFrame raw = .error .checksumMismatch) ∨
    (5 + (byteAt raw 2).toNat ≤ raw.length ∧
      (crc16 (slice raw 1 (2 + (byteAt raw 2).toNat))).toNat = memRead raw (3 + (byteAt raw 2).toNat) 2 ∧
      decodeFrame raw = .ok
        { start := byteAt raw 0, seqAddr := byteAt raw 1, length := byteAt raw 2,
          payload := slice raw 3 (byteAt raw 2).toNat,
          checksum := crc16 (slice raw 1 (2 + (byteAt raw 2).toNat)) }) := by
  by_cases h3 : raw.length < 3
  · exact .inl ⟨h3, by simp [decodeFrame, h3]⟩
  by_cases hl : raw.length < 5 + (byteAt raw 2).toNat
  · exact .inr (.inl ⟨by omega, hl, by simp [decodeFrame, h3, hl]⟩)
  by_cases hc : (crc16 (slice raw 1 (2 + (byteAt raw 2).toNat))).toNat = memRead raw (3 + (byteAt raw 2).toNat) 2
  · refine .inr (.inr (.inr ⟨by omega, hc, ?_⟩))
    simp only [decodeFrame, if_neg h3, if_neg hl, ne_eq, hc, not_true_eq_false, if_false]
    simp [← hc]
  · exact .inr (.inr (.inl ⟨by omega, hc, by simp [decodeFrame, h3, hl, hc]⟩))

/-- A frame that decoded holds as many payload bytes as its length byte says (R130). -/
theorem decodeFrame_payload_length {raw : List Byte} {f : Frame} (h : decodeFrame raw = .ok f) :
    f.payload.length = f.length.toNat := by
  rcases decodeFrame_cases raw with ⟨_, e⟩ | ⟨_, _, e⟩ | ⟨_, _, e⟩ | ⟨hl, _, e⟩
  · rw [e] at h; cases h
  · rw [e] at h; cases h
  · rw [e] at h; cases h
  · rw [e] at h
    cases h
    exact slice_length raw 3 _ (by omega)

/-- A decoded payload is at most 255 bytes (R81, R147). -/
theorem decodeFrame_payload_le {raw : List Byte} {f : Frame} (h : decodeFrame raw = .ok f) : f.payload.length ≤ 255 := by
  rw [decodeFrame_payload_length h]
  have := f.length.isLt
  omega

/-- What a `TRead` answer puts into `RXBUF` fits it (R64). -/
theorem receivedBytes_wf (ans : ReadAnswer) : Memory.wf (receivedBytes ans) = true := by
  cases ans with
  | rErr => rfl
  | rOk bytes => simp [receivedBytes, Memory.wf, fitsBuffer]

end Sys2Proof.Machine
end

