-- ==== Sys2Proof/Laws/Channel.lean ====
section
/-! SUPPORT. What the two phases of an exchange can do, for either agent. -/

namespace Sys2Proof.Machine

/-- The bit a command of this state carries (R174, R175). -/
def State.sentBit (cmd : Byte) (s : State) : BitVec 1 := (seqForCommand s.par.syncCmd cmd s.seq).1

/-- `SEQ` after a command of this state (R174, R175). -/
def State.seqAfter (cmd : Byte) (s : State) : BitVec 1 := (seqForCommand s.par.syncCmd cmd s.seq).2

/-- The frame a command of this state makes (R176, R177). -/
def State.sentFrame (cmd : Byte) (data : List Byte) (s : State) : List Byte :=
  commandFrame (seqAddrByte (s.sentBit cmd) s.cfg.addr) cmd data

/-- Everything phase 1 can do (R170 to R180, R190), in the order of its tests. -/
theorem sendStart_cases (a : Agent) (cmd : Byte) (data : List Byte) (s : State) :
    (s.connected = false ∧
      sendStart a cmd data s = (s.release.raise a .notConnected, some .notConnected)) ∨
    (s.connected = true ∧ Config.dataMax < data.length ∧
      sendStart a cmd data s =
        (((s.setSeq (s.seqAfter cmd)).release).raise a .frameTooLarge, some .frameTooLarge)) ∨
    (s.connected = true ∧ data.length ≤ Config.dataMax ∧ s.nextWrite (s.sentFrame cmd data) = .wErr ∧
      sendStart a cmd data s =
        ((((((s.setSeq (s.seqAfter cmd)).setTx (s.sentFrame cmd data)).tWrite a).setTx []).release).raise a .writeFailed,
          some .writeFailed)) ∨
    (s.connected = true ∧ data.length ≤ Config.dataMax ∧ (∃ n, s.nextWrite (s.sentFrame cmd data) = .wOk n) ∧
      sendStart a cmd data s =
        (((((s.setSeq (s.seqAfter cmd)).setLock (Lock.ofAgent a)).setTx (s.sentFrame cmd data)).tWrite a).setExchange
          .awaitReply (some (s.sentBit cmd)) |>.begun a, none)) := by
  by_cases hc : s.connected = true
  · by_cases hl : data.length ≤ Config.dataMax
    · cases hw : s.nextWrite (s.sentFrame cmd data) with
      | wErr =>
        refine .inr (.inr (.inl ⟨hc, hl, rfl, ?_⟩))
        rw [State.sentFrame, State.sentBit] at hw
        simp only [sendStart, hc, if_true, encodeFrame_eq, if_pos hl, hw, State.failStart]
        cases a <;> rfl
      | wOk n =>
        refine .inr (.inr (.inr ⟨hc, hl, ⟨n, rfl⟩, ?_⟩))
        rw [State.sentFrame, State.sentBit] at hw
        simp only [sendStart, hc, if_true, encodeFrame_eq, if_pos hl, hw]
        rfl
    · refine .inr (.inl ⟨hc, by omega, ?_⟩)
      simp only [sendStart, hc, if_true, encodeFrame_eq, if_neg hl, State.failStart]
      cases a <;> rfl
  · have hc' : s.connected = false := by simpa using hc
    refine .inl ⟨hc', ?_⟩
    simp only [sendStart, hc', State.failStart]
    cases a <;> rfl

/-- Everything phase 2 can do (R181 to R188): the exchange is over, and either one error is raised or the results of a
Response are written. -/
theorem sendFinish_cases (a : Agent) (s : State) :
    (∃ e, replyOf s.par.status s.nextRead (receivedBytes s.nextRead) = .error e ∧
      sendFinish a s = ((s.tRead a).endExchange.raise a e, .error e)) ∨
    (∃ r, replyOf s.par.status s.nextRead (receivedBytes s.nextRead) = .ok r ∧
      sendFinish a s = ((s.tRead a).endExchange.complete a (responseResults r s.xBit), .ok r)) := by
  cases h : replyOf s.par.status s.nextRead (receivedBytes s.nextRead) with
  | error e =>
    refine .inl ⟨e, rfl, ?_⟩
    simp only [sendFinish, setRx_rxBuf, h]
    rfl
  | ok r =>
    refine .inr ⟨r, rfl, ?_⟩
    simp only [sendFinish, setRx_rxBuf, h]
    rfl

/-- A reply that is a Response came from a frame that decoded, with its status byte first (R183, R184). -/
theorem replyOf_ok {c : StatusCodes} {ans : ReadAnswer} {rx : Memory} {r : Response} (h : replyOf c ans rx = .ok r) :
    decodeFrame rx = .ok r.frame ∧ r.frame.payload = r.statusByte :: r.rawPayload ∧
      r.status = statusOf c r.statusByte := by
  unfold replyOf at h
  split at h
  · cases h
  · cases h
  · split at h
    · cases h
    · rename_i f hf
      unfold responseOf at h
      split at h
      · cases h
      · rename_i hp
        cases h
        exact ⟨hf, hp, rfl⟩

/-- The reply data is at most 254 bytes (R192). -/
theorem replyOf_rawPayload_le {c : StatusCodes} {ans : ReadAnswer} {rx : Memory} {r : Response}
    (h : replyOf c ans rx = .ok r) : r.rawPayload.length ≤ 254 := by
  obtain ⟨hd, hp, _⟩ := replyOf_ok h
  have := decodeFrame_payload_le hd
  rw [hp, List.length_cons] at this
  omega

end Sys2Proof.Machine
end

