-- ==== Sys2Proof/Laws/Step.lean ====
section
/-! SUPPORT. What a turn and a step can do. -/

namespace Sys2Proof.Machine

/-- Everything the host's turn can do. -/
theorem hostTurn_cases (s : State) :
    (s.hostAwaits = true ∧ hostTurn s = .next (sendFinish .host s).1) ∨
    (s.hostAwaits = false ∧ s.hostPending = true ∧ ∃ i, s.fetch = .ok i ∧ hostTurn s = exec i s) ∨
    (s.hostAwaits = false ∧ s.hostPending = true ∧ s.fetch = .error .illegalOp ∧
      hostTurn s = .next (s.raise .host .illegalOp)) ∨
    (s.hostAwaits = false ∧ s.hostPending = true ∧ s.fetch = .error .operandTooLong ∧
      hostTurn s = .refused .operandTooLong) ∨
    (s.hostAwaits = false ∧ s.hostPending = false ∧ s.inp.hostOps = [] ∧ hostTurn s = .next s) ∨
    (s.hostAwaits = false ∧ s.hostPending = false ∧ ∃ r rest, s.inp.hostOps = r :: rest ∧
      hostTurn s = .next (s.popHostOp.present r)) := by
  cases ha : s.hostAwaits with
  | true => exact .inl ⟨rfl, by simp [hostTurn, ha]⟩
  | false =>
    cases hp : s.hostPending with
    | true =>
      cases hf : s.fetch with
      | ok i => exact .inr (.inl ⟨rfl, rfl, i, rfl, by simp [hostTurn, ha, hp, hf]⟩)
      | error e =>
        cases e with
        | illegalOp => exact .inr (.inr (.inl ⟨rfl, rfl, rfl, by simp [hostTurn, ha, hp, hf]⟩))
        | operandTooLong => exact .inr (.inr (.inr (.inl ⟨rfl, rfl, rfl, by simp [hostTurn, ha, hp, hf]⟩)))
    | false =>
      cases hq : s.inp.hostOps with
      | nil => exact .inr (.inr (.inr (.inr (.inl ⟨rfl, rfl, rfl, by simp [hostTurn, ha, hp, hq]⟩))))
      | cons r rest =>
        exact .inr (.inr (.inr (.inr (.inr ⟨rfl, rfl, r, rest, rfl, by simp [hostTurn, ha, hp, hq]⟩))))

/-- Everything the poller's turn can do (R243). -/
theorem pollerTurn_cases (s : State) :
    (s.lock = .poller ∧ s.xph = .awaitReply ∧ pollerTurn s = tickEnd s) ∨
    (s.pollRun = .running ∧ s.lock = .free ∧ pollerTurn s = tickBegin s) ∨
    (s.pollerAwaits = false ∧ s.tickEnabled = false ∧ pollerTurn s = s) := by
  cases ha : s.pollerAwaits with
  | true =>
    have h : s.lock = .poller ∧ s.xph = .awaitReply := by simpa [State.pollerAwaits] using ha
    exact .inl ⟨h.1, h.2, by simp [pollerTurn, ha]⟩
  | false =>
    cases ht : s.tickEnabled with
    | true =>
      have h : s.pollRun = .running ∧ s.lock = .free := by simpa [State.tickEnabled] using ht
      exact .inr (.inl ⟨h.1, h.2, by simp [pollerTurn, ha, ht]⟩)
    | false => exact .inr (.inr ⟨rfl, rfl, by simp [pollerTurn, ha, ht]⟩)

/-- Packaged induction over a run: what every step keeps, every reachable state has. -/
theorem reaches_keeps {P : State → Prop} (hstep : ∀ s t, step s = .next t → P s → P t) {s u : State}
    (h : Reaches s u) (hs : P s) : P u := by
  induction h with
  | here s => exact hs
  | more hst _ ih => exact ih (hstep _ _ hst hs)

@[simp] theorem turned_seq (s : State) : s.turned.seq = s.seq := rfl
@[simp] theorem turned_lock (s : State) : s.turned.lock = s.lock := rfl
@[simp] theorem turned_xph (s : State) : s.turned.xph = s.xph := rfl
@[simp] theorem turned_pollRun (s : State) : s.turned.pollRun = s.pollRun := rfl
@[simp] theorem turned_cfg (s : State) : s.turned.cfg = s.cfg := rfl
@[simp] theorem turned_connected (s : State) : s.turned.connected = s.connected := rfl
@[simp] theorem turned_host (s : State) : s.turned.host = s.host := rfl
@[simp] theorem turned_poller (s : State) : s.turned.poller = s.poller := rfl
@[simp] theorem turned_txBuf (s : State) : s.turned.txBuf = s.txBuf := rfl
@[simp] theorem turned_rxBuf (s : State) : s.turned.rxBuf = s.rxBuf := rfl
@[simp] theorem turned_xBit (s : State) : s.turned.xBit = s.xBit := rfl
@[simp] theorem turned_par (s : State) : s.turned.par = s.par := rfl
@[simp] theorem turned_hostPending (s : State) : s.turned.hostPending = s.hostPending := rfl
@[simp] theorem turned_calls (s : State) : s.turned.calls = s.calls := rfl
@[simp] theorem turned_history (s : State) : s.turned.history = s.history := rfl
@[simp] theorem turned_sink (s : State) : s.turned.sink = s.sink := rfl
@[simp] theorem turned_hostAwaits (s : State) : s.turned.hostAwaits = s.hostAwaits := rfl
@[simp] theorem turned_pollerAwaits (s : State) : s.turned.pollerAwaits = s.pollerAwaits := rfl
@[simp] theorem turned_tickEnabled (s : State) : s.turned.tickEnabled = s.tickEnabled := rfl
@[simp] theorem turned_hostOps (s : State) : s.turned.inp.hostOps = s.inp.hostOps := by
  show s.inp.afterTurn.hostOps = _
  unfold Inputs.afterTurn
  split <;> rfl

@[simp] theorem afterWrite_hostOps (i : Inputs) : i.afterWrite.hostOps = i.hostOps := by
  unfold Inputs.afterWrite
  split <;> rfl

@[simp] theorem afterRead_hostOps (i : Inputs) : i.afterRead.hostOps = i.hostOps := by
  unfold Inputs.afterRead
  split <;> rfl

theorem step_eq (s : State) : step s = runTurn s.nextTurn s.turned := rfl

/-- The host's step. -/
theorem step_host (s : State) (h : s.nextTurn = .host) : step s = hostTurn s.turned := by
  rw [step_eq, h]
  rfl

/-- The poller's step. -/
theorem step_poller (s : State) (h : s.nextTurn = .poller) : step s = .next (pollerTurn s.turned) := by
  rw [step_eq, h]
  rfl

/-- The step in which the surrounding software drives `CONNECTED` (R32). -/
theorem step_setConnected (s : State) (b : Bool) (h : s.nextTurn = .setConnected b) :
    step s = .next { s.turned with connected := b } := by
  rw [step_eq, h]
  rfl

/-- Everything an operation of the host does to the state, by the reason it does it. -/
inductive ExecShape : Instr → State → State → Prop where
  /-- A pure operation completes (R68). -/
  | pure {i s} (r : Results) : isPure i = true → ExecShape i s (s.hostDone r)
  /-- The operation holds while an exchange is in progress (R164, R171). -/
  | holds {i s} : isPure i = false → s.lock ≠ .free → ExecShape i s s
  /-- `SEQ_NEXT` (R160). -/
  | seqNext {s} : s.lock = .free → ExecShape .seqNext s
      { s.hostDone { Results.blank with err := some 0, bit := some s.seq } with seq := s.seq ^^^ 1 }
  /-- `SEQ_RESET` (R162). -/
  | seqReset {s} : s.lock = .free → ExecShape .seqReset s
      { s.hostDone { Results.blank with err := some 0 } with seq := 0 }
  /-- `SEND` (R170). -/
  | send {s} (cmd : Byte) (data : List Byte) : s.lock = .free →
      ExecShape (.send cmd data) s (sendStart .host cmd data s).1
  /-- `SYNC` (R105). -/
  | sync {s} (data : List Byte) : s.lock = .free → ExecShape (.sync data) s (sendStart .host s.par.syncCmd data s).1
  /-- `POLL_START` (R240). -/
  | pollStart {s} : ExecShape .pollStart s
      { s.hostDone { Results.blank with err := some 0 } with pollRun := .running }
  /-- `POLL_STOP` (R241). -/
  | pollStop {s} : ExecShape .pollStop s
      { s.hostDone { Results.blank with err := some 0 } with pollRun := .stopped }

/-- A pure operation completes in every state (R68). -/
theorem exec_pure {i : Instr} (h : isPure i = true) (s : State) : ∃ r, exec i s = .next (s.hostDone r) := by
  cases i with
  | crc16 a => exact ⟨_, rfl⟩
  | encode sa cmd data =>
    show ∃ r, execEncode sa cmd data s = _
    unfold execEncode
    cases encodeFrame sa cmd data <;> exact ⟨_, rfl⟩
  | decode raw =>
    show ∃ r, execDecode raw s = _
    unfold execDecode
    cases decodeFrame raw <;> exact ⟨_, rfl⟩
  | decIdent p =>
    show ∃ r, execDecIdent p s = _
    unfold execDecIdent
    cases decodeIdent s.par.units p <;> exact ⟨_, rfl⟩
  | decChan ver p =>
    show ∃ r, execDecChan ver p s = _
    unfold execDecChan
    cases decodeChannels s.par.layout ver p <;> exact ⟨_, rfl⟩
  | decSetup p =>
    show ∃ r, execDecSetup p s = _
    unfold execDecSetup
    cases decodeSetup s.par.units p <;> exact ⟨_, rfl⟩
  | seqNext => cases h
  | seqReset => cases h
  | send cmd data => cases h
  | sync data => cases h
  | pollStart => cases h
  | pollStop => cases h

/-- Every operation answers a next state of one of these shapes. -/
theorem exec_shape (i : Instr) (s : State) : ∃ t, exec i s = .next t ∧ ExecShape i s t := by
  cases hp : isPure i with
  | true =>
    obtain ⟨r, e⟩ := exec_pure hp s
    exact ⟨_, e, .pure r hp⟩
  | false =>
    by_cases hl : s.lock = .free <;> cases i
    case pos.seqNext => exact ⟨_, if_pos hl, .seqNext hl⟩
    case pos.seqReset => exact ⟨_, if_pos hl, .seqReset hl⟩
    case pos.send cmd data => exact ⟨_, if_pos hl, .send cmd data hl⟩
    case pos.sync data => exact ⟨_, if_pos hl, .sync data hl⟩
    case neg.seqNext => exact ⟨_, if_neg hl, .holds hp hl⟩
    case neg.seqReset => exact ⟨_, if_neg hl, .holds hp hl⟩
    case neg.send cmd data => exact ⟨_, if_neg hl, .holds hp hl⟩
    case neg.sync data => exact ⟨_, if_neg hl, .holds hp hl⟩
    case pos.pollStart => exact ⟨_, rfl, .pollStart⟩
    case neg.pollStart => exact ⟨_, rfl, .pollStart⟩
    case pos.pollStop => exact ⟨_, rfl, .pollStop⟩
    case neg.pollStop => exact ⟨_, rfl, .pollStop⟩
    all_goals cases hp

/-- Everything a step that answers a next state can do, by the reason it does it. -/
inductive StepShape (s : State) : State → Prop where
  /-- The host has nothing to do. -/
  | hostIdle : s.nextTurn = .host → s.hostAwaits = false → s.hostPending = false → s.inp.hostOps = [] →
      StepShape s s.turned
  /-- No step of the poller is enabled (R243). -/
  | pollerIdle : s.nextTurn = .poller → s.pollerAwaits = false → s.tickEnabled = false → StepShape s s.turned
  /-- The host's presented operation runs. -/
  | operation {t} (i : Instr) : s.Runs i → ExecShape i s.turned t → StepShape s t
  /-- An unassigned code (R101). -/
  | illegal : s.nextTurn = .host → s.hostAwaits = false → s.hostPending = true →
      decode s.par.syncCmd s.host.opnd = .error .illegalOp → StepShape s (s.turned.raise .host .illegalOp)
  /-- The host presents its next operation (log 9). -/
  | presents (r : OperandRegs) (rest : List OperandRegs) : s.nextTurn = .host → s.hostAwaits = false →
      s.hostPending = false → s.inp.hostOps = r :: rest → StepShape s (s.turned.popHostOp.present r)
  /-- Phase 2 of the host's exchange (R181). -/
  | reply : s.nextTurn = .host → s.lock = .host → s.xph = .awaitReply → StepShape s (sendFinish .host s.turned).1
  /-- Tick-begin (R244). -/
  | tickBegin : s.nextTurn = .poller → s.pollRun = .running → s.lock = .free → StepShape s (tickBegin s.turned)
  /-- Tick-end (R245). -/
  | tickEnd : s.nextTurn = .poller → s.lock = .poller → s.xph = .awaitReply → StepShape s (tickEnd s.turned)
  /-- The surrounding software drives `CONNECTED` (R32). -/
  | connection (b : Bool) : s.nextTurn = .setConnected b → StepShape s { s.turned with connected := b }

theorem step_shape {s t : State} (h : step s = .next t) : StepShape s t := by
  cases hn : s.nextTurn with
  | host =>
    rw [step_host s hn] at h
    rcases hostTurn_cases s.turned with ⟨ha, e⟩ | ⟨ha, hp, i, hf, e⟩ | ⟨ha, hp, hf, e⟩ | ⟨_, _, _, e⟩ |
      ⟨ha, hp, hq, e⟩ | ⟨ha, hp, r, rest, hq, e⟩ <;> rw [e] at h
    · cases h
      have ha' : s.lock = .host ∧ s.xph = .awaitReply := by
        have ha : s.hostAwaits = true := ha
        simpa [State.hostAwaits] using ha
      exact .reply hn ha'.1 ha'.2
    · obtain ⟨u, eu, hs⟩ := exec_shape i s.turned
      rw [eu] at h
      cases h
      exact .operation i ⟨hn, ha, hp, hf⟩ hs
    · cases h
      exact .illegal hn ha hp hf
    · cases h
    · cases h
      exact .hostIdle hn ha hp (by rw [← hq, turned_hostOps])
    · cases h
      exact .presents r rest hn ha hp (by rw [← hq, turned_hostOps])
  | poller =>
    rw [step_poller s hn] at h
    cases h
    rcases pollerTurn_cases s.turned with ⟨hl, hx, e⟩ | ⟨hr, hl, e⟩ | ⟨ha, ht, e⟩ <;> rw [e]
    · exact .tickEnd hn hl hx
    · exact .tickBegin hn hr hl
    · exact .pollerIdle hn ha ht
  | setConnected b =>
    rw [step_setConnected s b hn] at h
    cases h
    exact .connection b hn

end Sys2Proof.Machine
end

