-- ==== Sys2Proof/Laws/Exchange.lean ====
section
/-! SUPPORT. Field by field, what the two phases of an exchange leave: the lemmas to cite about `sendStart` and
`sendFinish` where `sendStart_cases` and `sendFinish_cases` say more than is needed. -/

namespace Sys2Proof.Machine

/-- Phase 1 leaves the configuration, the parameters, `CONNECTED` and `POLL_RUN` (R30, R32, R250). -/
theorem sendStart_keeps (a : Agent) (cmd : Byte) (data : List Byte) (s : State) :
    (sendStart a cmd data s).1.cfg = s.cfg ∧ (sendStart a cmd data s).1.par = s.par ∧
    (sendStart a cmd data s).1.connected = s.connected ∧ (sendStart a cmd data s).1.pollRun = s.pollRun := by
  rcases sendStart_cases a cmd data s with ⟨_, e⟩ | ⟨_, _, e⟩ | ⟨_, _, _, e⟩ | ⟨_, _, _, e⟩ <;> rw [e] <;>
    simp [State.raise, State.complete, State.release, State.tWrite]

/-- `SEQ` after phase 1: unchanged without a connection, stepped otherwise (R172, R173). -/
theorem sendStart_seq (a : Agent) (cmd : Byte) (data : List Byte) (s : State) :
    (sendStart a cmd data s).1.seq = if s.connected then s.seqAfter cmd else s.seq := by
  rcases sendStart_cases a cmd data s with ⟨h, e⟩ | ⟨h, _, e⟩ | ⟨h, _, _, e⟩ | ⟨h, _, _, e⟩ <;> rw [e, h] <;>
    simp [State.raise, State.complete, State.release, State.tWrite]

/-- Phase 1 either leaves the lock free with no exchange in progress, or holds it with one (R179, R180). -/
theorem sendStart_lock (a : Agent) (cmd : Byte) (data : List Byte) (s : State) :
    ((sendStart a cmd data s).2 ≠ none ∧ (sendStart a cmd data s).1.lock = .free ∧
      (sendStart a cmd data s).1.xph = s.xph ∧ (sendStart a cmd data s).1.xBit = s.xBit) ∨
    ((sendStart a cmd data s).2 = none ∧ s.connected = true ∧ data.length ≤ Config.dataMax ∧
      (sendStart a cmd data s).1.lock = Lock.ofAgent a ∧ (sendStart a cmd data s).1.xph = .awaitReply ∧
      (sendStart a cmd data s).1.xBit = some (s.sentBit cmd) ∧
      (sendStart a cmd data s).1.txBuf = s.sentFrame cmd data) := by
  rcases sendStart_cases a cmd data s with ⟨_, e⟩ | ⟨_, _, e⟩ | ⟨_, _, _, e⟩ | ⟨h, hd, _, e⟩ <;> rw [e]
  · left
    simp [State.raise, State.complete, State.release]
  · left
    simp [State.raise, State.complete, State.release]
  · left
    simp [State.raise, State.complete, State.release, State.tWrite]
  · right
    simp [State.tWrite, h, hd]

/-- The poller's phase 1 leaves the host's port (R29). -/
theorem sendStart_poller_host (cmd : Byte) (data : List Byte) (s : State) :
    (sendStart .poller cmd data s).1.host = s.host ∧
    (sendStart .poller cmd data s).1.hostPending = s.hostPending := by
  rcases sendStart_cases .poller cmd data s with ⟨_, e⟩ | ⟨_, _, e⟩ | ⟨_, _, _, e⟩ | ⟨_, _, _, e⟩ <;> rw [e] <;>
    simp [State.raise, State.complete, State.release, State.tWrite]

/-- Phase 2 leaves the configuration, the parameters, `CONNECTED`, `POLL_RUN` and `SEQ` (R187, R188). -/
theorem sendFinish_keeps (a : Agent) (s : State) :
    (sendFinish a s).1.cfg = s.cfg ∧ (sendFinish a s).1.par = s.par ∧ (sendFinish a s).1.connected = s.connected ∧
    (sendFinish a s).1.pollRun = s.pollRun ∧ (sendFinish a s).1.seq = s.seq := by
  rcases sendFinish_cases a s with ⟨_, _, e⟩ | ⟨_, _, e⟩ <;> rw [e] <;>
    simp [State.raise, State.complete, State.endExchange, State.release, State.tRead]

/-- Phase 2 ends the exchange: the lock is free, neither buffer keeps a value, one `TRead` was made (R188). -/
theorem sendFinish_over (a : Agent) (s : State) :
    (sendFinish a s).1.lock = .free ∧ (sendFinish a s).1.xph = .idle ∧ (sendFinish a s).1.xBit = none ∧
    (sendFinish a s).1.txBuf = [] ∧ (sendFinish a s).1.rxBuf = [] ∧
    (sendFinish a s).1.calls = s.calls ++ [.read a s.nextRead] := by
  rcases sendFinish_cases a s with ⟨_, _, e⟩ | ⟨_, _, e⟩ <;> rw [e] <;>
    simp [State.raise, State.complete, State.endExchange, State.release, State.tRead]

/-- The poller's phase 2 leaves the host's port (R29). -/
theorem sendFinish_poller_host (s : State) :
    (sendFinish .poller s).1.host = s.host ∧ (sendFinish .poller s).1.hostPending = s.hostPending := by
  rcases sendFinish_cases .poller s with ⟨_, _, e⟩ | ⟨_, _, e⟩ <;> rw [e] <;>
    simp [State.raise, State.complete, State.endExchange, State.release, State.tRead]

/-- A history that is serialised goes on from the agent it leaves open (R67). -/
theorem serialFrom_append (old new : List Call) (p q : Option Agent) (h : serialFrom p old = some q) :
    serialFrom p (old ++ new) = serialFrom q new := by
  induction old generalizing p with
  | nil =>
    cases h
    rfl
  | cons c rest ih =>
    cases c with
    | write a bytes ans =>
      cases p with
      | none => cases ans <;> exact ih _ h
      | some b => simp [serialFrom] at h
    | read a ans =>
      cases p with
      | none => simp [serialFrom] at h
      | some b =>
        simp only [serialFrom, List.cons_append] at h ⊢
        split at h
        · rw [if_pos ‹_›]
          exact ih _ h
        · cases h

/-- The events of a reply: whole events in payload order, then nothing or one `PollMalformed` (R247). -/
theorem eventsFuel_append (k : Byte → Nat) (events : List (Byte × List Byte)) (tail : List Byte) (fuel : Nat)
    (he : ∀ e ∈ events, e.2.length = k e.1)
    (hf : ((events.flatMap fun e => e.1 :: e.2) ++ tail).length ≤ fuel) :
    ∃ fuel', tail.length ≤ fuel' ∧
      eventsFuel k fuel ((events.flatMap fun e => e.1 :: e.2) ++ tail) =
        (events.map fun e => SinkRec.event e.1 e.2) ++ eventsFuel k fuel' tail := by
  induction events generalizing fuel with
  | nil => exact ⟨fuel, by simpa using hf, rfl⟩
  | cons e rest ih =>
    obtain ⟨code, args⟩ := e
    have ha : args.length = k code := he (code, args) (by simp)
    cases fuel with
    | zero => simp at hf
    | succ f =>
      obtain ⟨f', h1, h2⟩ := ih f (fun e h => he e (by simp [h])) (by simp at hf ⊢; omega)
      refine ⟨f', h1, ?_⟩
      simp only [List.flatMap_cons, List.cons_append, List.append_assoc, eventsFuel]
      rw [if_neg (by simp; omega), ← ha, List.take_left, List.drop_left, h2]
      rfl

end Sys2Proof.Machine
end

