-- ==== Sys2Proof/Laws/Memory.lean ====
section
/-! SUPPORT. The buffers of R50 are byte strings of at most BUF_MAX cells (Memory.wf): every operation that writes one
keeps that form, reset has it, and a cell reads as it was written. -/

namespace Sys2Proof.Machine

/-- A buffer is well-formed exactly when it has at most 1024 cells (R50). -/
theorem memory_wf_iff (m : Memory) : Memory.wf m = true ↔ m.length ≤ 1024 :=
  decide_eq_true_iff

/-- The buffer that holds no value (R37). -/
theorem memory_wf_nil : Memory.wf [] = true := rfl

/-- Writing `TXBUF` with a well-formed string leaves it well-formed (R50). -/
theorem setTx_wf (bytes : Memory) (s : State) (h : Memory.wf bytes = true) : Memory.wf (s.setTx bytes).txBuf = true := h

/-- Writing `RXBUF` with a well-formed string leaves it well-formed (R50). -/
theorem setRx_wf (bytes : Memory) (s : State) (h : Memory.wf bytes = true) : Memory.wf (s.setRx bytes).rxBuf = true := h

/-- What a `TRead` puts into `RXBUF` is well-formed, however many bytes the transport answered with (R64). -/
theorem setRx_receivedBytes_wf (ans : ReadAnswer) (s : State) :
    Memory.wf (s.setRx (receivedBytes ans)).rxBuf = true := receivedBytes_wf ans

/-- The end of an exchange leaves both buffers without a value (R34, R187). -/
theorem endExchange_wf (s : State) :
    Memory.wf s.endExchange.txBuf = true ∧ Memory.wf s.endExchange.rxBuf = true := ⟨rfl, rfl⟩

/-- A slice of a well-formed string is well-formed. -/
theorem slice_wf (m : Memory) (off n : Nat) (h : Memory.wf m = true) : Memory.wf (slice m off n) = true := by
  rw [memory_wf_iff] at h ⊢
  simp only [slice, List.length_take, List.length_drop]
  omega

/-- The checksum bytes are well-formed (R85, R123). -/
theorem checksumBytes_wf (c : Word16) : Memory.wf (checksumBytes c) = true := rfl

/-- A decoded payload is well-formed (R147). -/
theorem decodeFrame_payload_wf {raw : List Byte} {f : Frame} (h : decodeFrame raw = .ok f) :
    Memory.wf f.payload = true := by
  rw [memory_wf_iff]
  have := decodeFrame_payload_le h
  omega

/-- Every buffer of the machine after reset is well-formed (R37). -/
theorem reset_buffers_wf :
    Memory.wf State.reset.txBuf = true ∧ Memory.wf State.reset.rxBuf = true ∧
    Memory.wf State.reset.host.opnd.a = true ∧ Memory.wf State.reset.poller.opnd.a = true ∧
    Memory.wf State.reset.host.res.rBuf = true ∧ Memory.wf State.reset.poller.res.rBuf = true :=
  ⟨rfl, rfl, rfl, rfl, rfl, rfl⟩

/-- A cell below the length reads as the byte there; at or beyond it there is no value (R12, R27). -/
theorem memory_read_eq (m : Memory) (off : Nat) : m.read off = if off < m.length then some (byteAt m off) else none := by
  unfold Memory.read byteAt
  split
  · rename_i h
    simp [h]
  · rename_i h
    exact List.getElem?_eq_none (by omega)

end Sys2Proof.Machine
end

