-- ==== Sys2Proof/Laws/PerInstr.lean ====
section
/-! SUPPORT. What holds of every operation as syntax, one lemma per constructor. -/

namespace Sys2Proof.Laws.OpcodeAssigned

/-- The code an operation is presented with is its row's (R100), and no unassigned one (R101). -/
def Statement (i : Instr) : Prop :=
  (∀ syncCmd : Byte, (encode syncCmd i).op = i.opcode) ∧
    i.opcode ∉ ([0x0, 0x7, 0xB, 0xE, 0xF] : List (BitVec 4))

theorem crc16 (a : List Byte) : Statement (.crc16 a) := ⟨fun _ => rfl, by simp [Instr.opcode]⟩
theorem encode (seqAddr cmd : Byte) (data : List Byte) : Statement (.encode seqAddr cmd data) :=
  ⟨fun _ => rfl, by simp [Instr.opcode]⟩
theorem decode (raw : List Byte) : Statement (.decode raw) := ⟨fun _ => rfl, by simp [Instr.opcode]⟩
theorem seqNext : Statement .seqNext := ⟨fun _ => rfl, by decide⟩
theorem seqReset : Statement .seqReset := ⟨fun _ => rfl, by decide⟩
theorem send (cmd : Byte) (data : List Byte) : Statement (.send cmd data) := ⟨fun _ => rfl, by simp [Instr.opcode]⟩
theorem sync (data : List Byte) : Statement (.sync data) := ⟨fun _ => rfl, by simp [Instr.opcode]⟩
theorem decIdent (p : List Byte) : Statement (.decIdent p) := ⟨fun _ => rfl, by simp [Instr.opcode]⟩
theorem decChan (ver : Byte) (p : List Byte) : Statement (.decChan ver p) := ⟨fun _ => rfl, by simp [Instr.opcode]⟩
theorem decSetup (p : List Byte) : Statement (.decSetup p) := ⟨fun _ => rfl, by simp [Instr.opcode]⟩
theorem pollStart : Statement .pollStart := ⟨fun _ => rfl, by decide⟩
theorem pollStop : Statement .pollStop := ⟨fun _ => rfl, by decide⟩

end Sys2Proof.Laws.OpcodeAssigned
end

