-- ==== Sys2Proof/Laws/Wire.lean ====
section
/-! SUPPORT. The frames of the wire as whole byte strings: what encodes to them and what they decode to. -/

namespace Sys2Proof.Machine

/-- A command frame is the wire frame of its command byte and data (R80, R131). -/
theorem commandFrame_eq_wireFrame (sa cmd : Byte) (data : List Byte) :
    commandFrame sa cmd data = wireFrame 0x7F sa (cmd :: data) := by
  simp [commandFrame, wireFrame, commandBody, checksumBytes, lowByte, highByte, Config.stx]

/-- The assembled sequence/address byte is the bit above the address (R82, R176). -/
theorem seqAddrByte_eq_wireSeqAddr (b : BitVec 1) (addr : BitVec 7) : seqAddrByte b addr = wireSeqAddr b addr := by
  revert b addr
  decide +kernel

theorem sentFrame_eq_commandWire (cmd : Byte) (data : List Byte) (s : State) :
    s.sentFrame cmd data = commandWire (s.sentBit cmd) s.cfg.addr cmd data := by
  rw [State.sentFrame, commandFrame_eq_wireFrame, seqAddrByte_eq_wireSeqAddr]
  rfl

/-- A frame whose declared length is all there decodes exactly when its two checksum bytes are right (R140, R144). -/
theorem decodeFrame_declared (st sa len lo hi : Byte) (payload extra : List Byte) (h : payload.length = len.toNat) :
    decodeFrame (st :: sa :: len :: payload ++ lo :: hi :: extra) =
      if lo.toNat + 256 * hi.toNat = (crc16 (sa :: len :: payload)).toNat then
        .ok { start := st, seqAddr := sa, length := len, payload := payload, checksum := crc16 (sa :: len :: payload) }
      else .error .checksumMismatch := by
  have hb : byteAt (st :: sa :: len :: payload ++ lo :: hi :: extra) 2 = len := rfl
  have hs : slice (st :: sa :: len :: payload ++ lo :: hi :: extra) 1 (2 + len.toNat) = sa :: len :: payload := by
    have e : st :: sa :: len :: payload ++ lo :: hi :: extra =
        [st] ++ ((sa :: len :: payload) ++ (lo :: hi :: extra)) := by simp
    rw [e]
    apply slice_append <;> (simp; try omega)
  have hp : slice (st :: sa :: len :: payload ++ lo :: hi :: extra) 3 len.toNat = payload := by
    have e : st :: sa :: len :: payload ++ lo :: hi :: extra = [st, sa, len] ++ (payload ++ (lo :: hi :: extra)) := by
      simp
    rw [e]
    apply slice_append <;> simp [h]
  have hm : memRead (st :: sa :: len :: payload ++ lo :: hi :: extra) (3 + len.toNat) 2 =
      lo.toNat + 256 * hi.toNat := by
    have e1 : st :: sa :: len :: payload ++ lo :: hi :: extra = (st :: sa :: len :: payload) ++ lo :: (hi :: extra) := by
      simp
    have e2 : st :: sa :: len :: payload ++ lo :: hi :: extra = (st :: sa :: len :: payload ++ [lo]) ++ hi :: extra := by
      simp
    simp only [memRead]
    rw [e1, byteAt_append_length _ _ _ _ (by simp; omega), ← e1, e2, byteAt_append_length _ _ _ _ (by simp; omega)]
    omega
  rcases decodeFrame_cases (st :: sa :: len :: payload ++ lo :: hi :: extra) with
    ⟨h1, e⟩ | ⟨h1, h2, e⟩ | ⟨h1, h2, e⟩ | ⟨h1, h2, e⟩
  · simp at h1
    omega
  · rw [hb] at h2
    simp at h2
    omega
  · rw [hb, hs, hm] at h2
    rw [e, if_neg (by omega)]
  · rw [hb, hs, hm] at h2
    rw [e, hb, hs, hp, if_pos h2.symm]
    simp

/-- A frame with a right checksum decodes to its fields, whatever its start byte and whatever follows it (R143, R146). -/
theorem decodeFrame_wireFrame (st sa : Byte) (payload extra : List Byte) (h : payload.length ≤ 255) :
    decodeFrame (wireFrame st sa payload ++ extra) =
      .ok { start := st, seqAddr := sa, length := BitVec.ofNat 8 payload.length, payload := payload,
            checksum := crc16 (sa :: BitVec.ofNat 8 payload.length :: payload) } := by
  have e : wireFrame st sa payload ++ extra =
      st :: sa :: BitVec.ofNat 8 payload.length :: payload ++
        lowByte (crc16 (sa :: BitVec.ofNat 8 payload.length :: payload)) ::
          highByte (crc16 (sa :: BitVec.ofNat 8 payload.length :: payload)) :: extra := by
    simp [wireFrame, lowByte, highByte]
  rw [e, decodeFrame_declared _ _ _ _ _ _ _ (by simp; omega), if_pos (lowByte_add_highByte _)]

/-- A frame whose declared length is not all there is `Truncated` (R142). -/
theorem decodeFrame_short (st sa len : Byte) (rest : List Byte) (h : rest.length < 2 + len.toNat) :
    decodeFrame (st :: sa :: len :: rest) = .error .truncated := by
  have hb : byteAt (st :: sa :: len :: rest) 2 = len := rfl
  rcases decodeFrame_cases (st :: sa :: len :: rest) with ⟨_, e⟩ | ⟨_, _, e⟩ | ⟨h1, _, _⟩ | ⟨h1, _, _⟩
  · exact e
  · exact e
  · rw [hb] at h1
    simp at h1
    omega
  · rw [hb] at h1
    simp at h1
    omega

@[simp] theorem wireFrame_length (st sa : Byte) (payload : List Byte) :
    (wireFrame st sa payload).length = 5 + payload.length := by
  simp [wireFrame]
  omega

/-- A wire frame keeps its place at the front of the first 1024 bytes (R64, R147). -/
theorem wireFrame_take (st sa : Byte) (payload extra : List Byte) (h : payload.length ≤ 255) :
    (wireFrame st sa payload ++ extra).take Config.bufMax =
      wireFrame st sa payload ++ extra.take (Config.bufMax - (wireFrame st sa payload).length) := by
  rw [List.take_append, List.take_of_length_le]
  simp [Config.bufMax]
  omega

/-- Every reply of `BadReply` ends the exchange with its error (R181 to R183, R190). -/
theorem replyOf_bad {c : StatusCodes} {ans : ReadAnswer} {e : ErrKind} {code : BitVec 4} (h : BadReply ans e code) :
    replyOf c ans (receivedBytes ans) = .error e ∧ code = e.code := by
  cases h with
  | readFailed => exact ⟨rfl, rfl⟩
  | timeout => exact ⟨rfl, rfl⟩
  | noLength bytes h1 h2 =>
    refine ⟨?_, rfl⟩
    cases bytes with
    | nil => exact absurd rfl h1
    | cons b r =>
      have : (b :: r).take Config.bufMax = b :: r := List.take_of_length_le (by simp [Config.bufMax]; simp at h2; omega)
      simp only [replyOf, receivedBytes, this]
      rw [decodeFrame, if_pos h2]
  | short st sa len rest h =>
    refine ⟨?_, rfl⟩
    have := len.isLt
    have : (st :: sa :: len :: rest).take Config.bufMax = st :: sa :: len :: rest :=
      List.take_of_length_le (by simp [Config.bufMax]; omega)
    simp only [replyOf, receivedBytes, this, decodeFrame_short _ _ _ _ h]
  | checksum st sa len lo hi payload extra h1 h2 =>
    refine ⟨?_, rfl⟩
    have := len.isLt
    have : (st :: sa :: len :: payload ++ lo :: hi :: extra).take Config.bufMax =
        st :: sa :: len :: payload ++ lo :: hi :: extra.take (Config.bufMax - (5 + payload.length)) := by
      rw [List.take_append, List.take_of_length_le (by simp [Config.bufMax]; omega)]
      have e : Config.bufMax - (st :: sa :: len :: payload).length = (Config.bufMax - (5 + payload.length)) + 2 := by
        simp [Config.bufMax]; omega
      rw [e]; rfl
    show (match decodeFrame ((st :: sa :: len :: payload ++ lo :: hi :: extra).take Config.bufMax) with
        | .error e => Except.error e
        | .ok f => responseOf c f) = _
    rw [this, decodeFrame_declared _ _ _ _ _ _ _ h1, if_neg h2]
  | noStatus st sa extra =>
    refine ⟨?_, rfl⟩
    have e : ∃ x y, wireFrame st sa [] ++ extra = x :: y := ⟨_, _, rfl⟩
    obtain ⟨x, y, e⟩ := e
    have e2 := wireFrame_take st sa [] extra (by simp)
    rw [e] at e2 ⊢
    simp only [replyOf, receivedBytes, e2, decodeFrame_wireFrame _ _ _ _ (show ([] : List Byte).length ≤ 255 by simp)]
    rfl

/-- A reply with a right checksum and a status byte is a Response, whatever follows it (R184, R186). -/
theorem replyOf_good (c : StatusCodes) (st sa status : Byte) (data extra : List Byte) (h : data.length ≤ 254) :
    replyOf c (.rOk (wireFrame st sa (status :: data) ++ extra))
        (receivedBytes (.rOk (wireFrame st sa (status :: data) ++ extra))) =
     .ok (Response.mk (Frame.mk st sa (BitVec.ofNat 8 (data.length + 1)) (status :: data)
       (crc16 (sa :: BitVec.ofNat 8 (data.length+1) :: status :: data))) status (statusOf c status) data) := by
  have e : ∃ x y, wireFrame st sa (status :: data) ++ extra = x :: y := ⟨_, _, rfl⟩
  obtain ⟨x, y, e⟩ := e
  have e2 := wireFrame_take st sa (status :: data) extra (by simp; omega)
  rw [e] at e2 ⊢
  simp only [replyOf, receivedBytes, e2,
    decodeFrame_wireFrame _ _ _ _ (show (status :: data).length ≤ 255 by simp; omega)]
  rfl

end Sys2Proof.Machine
end

