-- ==== Sys2Proof/Tests/Slice0.lean ====
section
/-! SUPPORT. Tests, each one decode or one step, with the values of spec/95_test_vectors.md (their ids in the names'
comments); and for every obligation with hypotheses a witness that meets them. -/

namespace Sys2Proof.Tests

open Sys2Proof.Machine

/-! ### Helpers -/

/-- The parameters of the vectors: the defaults of R7; unit codes and `EVENT_ARGLEN` (1 for `ED`) are made up. -/
def par : Params :=
  { Config.params with
    units := { hopper := 3, payout := 4, combined := 6 }, layout := .interleaved,
    eventArgLen := (Vector.replicate 256 0).set 0xED 1 }

/-- The reset state with `CFG_ADDR = 0`, `CONNECTED = 1` and the parameters above. -/
def base : State :=
  { State.reset with
    par := par, connected := true, cfg := { port := 0, baud := 0, addr := 0, timeout := 0 } }

/-- The state an outcome goes on to. -/
def next (o : Host.Outcome State Fault Refusal) : State :=
  match o with
  | .next t => t
  | .fault _ => base
  | .refused _ => base

/-- Operand registers. -/
def regs (op : BitVec 4) (seqAddr cmd ver : Byte) (a : List Byte) : OperandRegs :=
  { op := op, seqAddr := seqAddr, cmd := cmd, ver := ver, a := a }

/-- `base` with an operation presented and the host's turn next. -/
def presents (r : OperandRegs) : State :=
  { base with
    host := { base.host with opnd := r }, hostPending := true, inp := { base.inp with turns := [.host, .host] } }

/-- `base` with agent `a`'s exchange awaiting the reply `ans`, and `a`'s turn next. -/
def awaits (a : Agent) (bit : BitVec 1) (ans : ReadAnswer) : State :=
  { base with
    lock := Lock.ofAgent a, xph := .awaitReply, xBit := some bit,
    txBuf := commandWire bit 0 0x07 [], calls := [.write a (commandWire bit 0 0x07 []) (.wOk 6)],
    inp :=
      { base.inp with
        turns := [match a with
          | .host => .host
          | .poller => .poller],
        reads := [ans] } }

/-- `base` with the poller running and its turn next. -/
def ticks : State := { base with pollRun := .running, inp := { base.inp with turns := [.poller] } }

/-! ### Well-formedness: an ill-formed term for each check -/

/-- One byte more than a buffer holds. -/
def overlong : List Byte := List.replicate 1025 0

/-- A string of 1025 bytes does not fit. -/
theorem overlong_unfit : fitsBuffer overlong = false := by
  unfold fitsBuffer overlong
  rw [List.length_replicate]
  decide

theorem test_fits : fitsBuffer (List.replicate 1024 0) = true := by
  unfold fitsBuffer
  rw [List.length_replicate]
  decide
theorem test_ill_crc16 : (Instr.crc16 overlong).wellFormed 0x11 = false := overlong_unfit
theorem test_ill_encode : (Instr.encode 0 0 overlong).wellFormed 0x11 = false := overlong_unfit
theorem test_ill_decode : (Instr.decode overlong).wellFormed 0x11 = false := overlong_unfit
theorem test_ill_send : (Instr.send 0x07 overlong).wellFormed 0x11 = false := by
  simp [Instr.wellFormed, overlong_unfit]
theorem test_ill_send_sync : (Instr.send 0x11 []).wellFormed 0x11 = false := by decide
theorem test_ill_sync : (Instr.sync overlong).wellFormed 0x11 = false := overlong_unfit
theorem test_ill_decIdent : (Instr.decIdent overlong).wellFormed 0x11 = false := overlong_unfit
theorem test_ill_decChan : (Instr.decChan 6 overlong).wellFormed 0x11 = false := overlong_unfit
theorem test_ill_decSetup : (Instr.decSetup overlong).wellFormed 0x11 = false := overlong_unfit

/-! ### Decoding: each code written out from R100, each operand with a value of its own -/

theorem test_decode_crc16 : decode 0x11 (regs 0b0001 1 2 3 [4]) = .ok (.crc16 [4]) := by decide
theorem test_decode_encode : decode 0x11 (regs 0b0010 1 2 3 [4]) = .ok (.encode 1 2 [4]) := by decide
theorem test_decode_decode : decode 0x11 (regs 0b0011 1 2 3 [4]) = .ok (.decode [4]) := by decide
theorem test_decode_seqNext : decode 0x11 (regs 0b0100 1 2 3 [4]) = .ok .seqNext := by decide
theorem test_decode_seqReset : decode 0x11 (regs 0b0101 1 2 3 [4]) = .ok .seqReset := by decide
theorem test_decode_send : decode 0x11 (regs 0b0110 1 2 3 [4]) = .ok (.send 2 [4]) := by decide
theorem test_decode_sync : decode 0x11 (regs 0b0110 1 0x11 3 [4]) = .ok (.sync [4]) := by decide
theorem test_decode_decIdent : decode 0x11 (regs 0b1000 1 2 3 [4]) = .ok (.decIdent [4]) := by decide
theorem test_decode_decChan : decode 0x11 (regs 0b1001 1 2 3 [4]) = .ok (.decChan 3 [4]) := by decide
theorem test_decode_decSetup : decode 0x11 (regs 0b1010 1 2 3 [4]) = .ok (.decSetup [4]) := by decide
theorem test_decode_pollStart : decode 0x11 (regs 0b1100 1 2 3 [4]) = .ok .pollStart := by decide
theorem test_decode_pollStop : decode 0x11 (regs 0b1101 1 2 3 [4]) = .ok .pollStop := by decide
/-- V10.1. -/
theorem test_decode_unassigned :
    ([0b0000, 0b0111, 0b1011, 0b1110, 0b1111] : List (BitVec 4)).all
      (fun op => decide (decode 0x11 (regs op 1 2 3 [4]) = .error .illegalOp)) = true := by decide
theorem test_decode_overlong : decode 0x11 (regs 0x1 0 0 0 overlong) = .error .operandTooLong := by
  simp [decode, regs, withBuffer, overlong_unfit]

/-- The words of the opcode table, and a step of each from reset. -/
theorem test_table_words :
    [0x1, 0x2, 0x3, 0x4, 0x5, 0x6, 0x8, 0x9, 0xA, 0xC, 0xD].map (decodeTableWord 8) =
      [some (.crc16 []), some (.encode 0 0 []), some (.decode []), some .seqNext, some .seqReset, some (.send 0 []),
       some (.decIdent []), some (.decChan 0 []), some (.decSetup []), some .pollStart, some .pollStop] := by decide
theorem test_first_step_runs_word : (next (step (State.reset.withFetchWord 8 0x4))).seq = 1 := by decide

/-! ### One step of each operation -/

/-- S2. -/
theorem test_crc16 :
    (next (exec (.crc16 [0x80, 0x01, 0x11]) base)).host.res.crc = some 0x8265 ∧
    (next (exec (.crc16 [0x80, 0x01, 0x11]) base)).host.res.rBuf = [0x65, 0x82] := by decide
/-- V1.1, V1.5, V1.10, V1.12. -/
theorem test_crc16_values :
    crc16 [] = 0xFFFF ∧ crc16 [0xFF, 0xFF] = 0 ∧
    crc16 [0x31, 0x32, 0x33, 0x34, 0x35, 0x36, 0x37, 0x38, 0x39] = 0xAEE7 ∧
    crc16 [0x80, 0x01, 0x11, 0x82, 0x65] = 0 := by decide
/-- V2.8. -/
theorem test_encode :
    (next (exec (.encode 0x80 0x02 [0xFF, 0xFF]) base)).host.res.rBuf =
      [0x7F, 0x80, 0x03, 0x02, 0xFF, 0xFF, 0x25, 0xA4] := by decide
/-- V2.14, V2.15. -/
theorem test_encode_limit :
    (next (exec (.encode 0 0x55 (List.replicate 254 0xAA)) base)).host.res.rBuf.drop 258 = [0x28, 0xD1] ∧
    (next (exec (.encode 0 0x55 (List.replicate 255 0)) base)).host.res =
      { Results.blank with err := some 8 } := by decide +kernel
/-- V3.5 followed by trailing bytes. -/
theorem test_decode_frame :
    (next (exec (.decode [0x00, 0x80, 0x01, 0xF0, 0x23, 0x80, 0xDE]) base)).host.res =
      { Results.blank with
        err := some 0, start := some 0x00, seqAddr := some 0x80, fLen := some 1, rLen := some 1, rBuf := [0xF0],
        crc := some 0x8023 } := by decide
/-- V3.8, V3.14. -/
theorem test_decode_errors :
    (next (exec (.decode [0x7F, 0x00, 0x00]) base)).host.res.err = some 5 ∧
    (next (exec (.decode [0x7F, 0x80, 0x01, 0xF0, 0x80, 0x23]) base)).host.res.err = some 6 := by decide
/-- V4.2. -/
theorem test_seqNext :
    (next (exec .seqNext (base.setSeq 1))).host.res.bit = some 1 ∧ (next (exec .seqNext (base.setSeq 1))).seq = 0 := by
  decide
/-- V4.6. -/
theorem test_seqNext_holds : exec .seqNext (ticks.setLock .poller) = .next (ticks.setLock .poller) := rfl
/-- V4.3. -/
theorem test_seqReset : (next (exec .seqReset (base.setSeq 1))).seq = 0 := by decide
/-- V5.2, phase 1. -/
theorem test_send :
    (next (exec (.send 0x07 []) ({ base with seq := 1, inp := { base.inp with writes := [.wOk 6] } }))).txBuf =
      [0x7F, 0x80, 0x01, 0x07, 0x12, 0x02] ∧
    (next (exec (.send 0x07 []) ({ base with seq := 1, inp := { base.inp with writes := [.wOk 6] } }))).seq = 0 := by
  decide
/-- V5.16 and V5.18, phase 2: the status is data, the reply's own sequence bit is not checked. -/
theorem test_send_reply :
    (next (step (awaits .host 1 (.rOk [0x7F, 0x80, 0x03, 0xF8, 0x01, 0x02, 0x6C, 0x2E])))).host.res.status = some 1 ∧
    (next (step (awaits .host 1 (.rOk [0x7F, 0x80, 0x03, 0xF8, 0x01, 0x02, 0x6C, 0x2E])))).host.res.rBuf = [1, 2] ∧
    (next (step (awaits .host 1 (.rOk [0x7F, 0x00, 0x01, 0xF0, 0x20, 0x0A])))).host.res.err = some 0 ∧
    (next (step (awaits .host 1 (.rOk [0x7F, 0x00, 0x01, 0xF0, 0x20, 0x0A])))).host.res.bit = some 1 := by
  decide
/-- V5.3, phase 1. -/
theorem test_sync :
    (next (exec (.sync []) ({ base with seq := 1, inp := { base.inp with writes := [.wOk 6] } }))).txBuf =
      [0x7F, 0x00, 0x01, 0x11, 0x66, 0x08] ∧
    (next (exec (.sync []) ({ base with seq := 1, inp := { base.inp with writes := [.wOk 6] } }))).seq = 0 := by
  decide
/-- V6.2. -/
theorem test_decIdent :
    (next (exec (.decIdent [3, 0x31, 0x32, 0x33, 0x34, 0x47, 0x42, 0x50, 5, 2, 1, 7, 0xAA, 0xBB]) base)).host.res =
      { Results.blank with
        err := some 0, uCode := some 3, uType := some 1, uFw := some #v[0x31, 0x32, 0x33, 0x34],
        uCc := some #v[0x47, 0x42, 0x50], uMult := some 125, uPver := some 7 } := by decide
/-- V6.3, S1a. -/
theorem test_decIdent_corners :
    (next (exec (.decIdent [0, 0, 0, 0, 0, 0, 0, 0, 0xFF, 0xFF, 0xFF, 0xFF]) base)).host.res.uMult = some 28305 ∧
    (next (exec (.decIdent [0, 7, 7, 9, 5, 0x45, 0x55, 0x52, 1, 0, 6]) base)).host.res.err = some 7 := by
  decide
/-- V7.4: interleaved records. -/
theorem test_decChan_interleaved :
    (next (exec (.decChan 6 [2, 5, 0x45, 0x55, 0x52, 0xF4, 1, 0, 0, 0, 0x45, 0x55, 0x52, 0xE8, 3, 0, 0])
      base)).host.res =
      { Results.blank with
        err := some 0, tN := some 2, tVb := [5, 0], tExt := [0, 1],
        tCc := [#v[0x45, 0x55, 0x52], #v[0x45, 0x55, 0x52]], tFull := [500, 1000], tVal := [5, 1000] } := by
  decide
/-- V7.6: the same bytes as arrays; V7.2: the legacy layout. -/
theorem test_decChan_arrays_legacy :
    (next (exec (.decChan 6 [2, 5, 0x45, 0x55, 0x52, 0xF4, 1, 0, 0, 0, 0x45, 0x55, 0x52, 0xE8, 3, 0, 0])
      { base with par := { par with layout := .arrays } })).host.res.tFull = [1381319936, 1000] ∧
    (next (exec (.decChan 5 [2, 5, 0x0A]) base)).host.res =
      { Results.blank with err := some 0, tN := some 2, tVb := [5, 0x0A], tVal := [5, 10] } := by decide
/-- V8.3. -/
theorem test_decSetup :
    (next (exec (.decSetup [6, 0x30, 0x31, 0x30, 0x30, 0x55, 0x53, 0x44, 0, 1, 0, 3, 1, 5, 0x14, 0, 1, 2, 0x10, 0x27, 0,
      8]) base)).host.res =
      { Results.blank with
        err := some 0, uCode := some 6, uType := some 3, uFw := some #v[0x30, 0x31, 0x30, 0x30],
        uCc := some #v[0x55, 0x53, 0x44], uMult := some 10, tN := some 3, tVb := [1, 5, 0x14], tSec := [0, 1, 2],
        sRmult := some 10000, uPver := some 8 } := by decide
/-- V8.7. -/
theorem test_decSetup_short :
    (next (exec (.decSetup [0, 0x37, 0x37, 0x39, 0x35, 0x45, 0x55, 0x52, 1, 0, 0, 6]) base)).host.res.err = some 7 := by
  decide
/-- V10.2. -/
theorem test_pollStart : (next (exec .pollStart ticks)).pollRun = .running := by decide
/-- V10.3. -/
theorem test_pollStop : (next (exec .pollStop base)).pollRun = .stopped ∧
    (next (exec .pollStop ticks)).pollRun = .stopped := by decide
/-- V9.8, V9.9. -/
theorem test_tickBegin :
    (next (step { ticks with connected := false })).sink = [.pollError .notConnected] ∧
    (next (step { ticks with inp := { ticks.inp with writes := [.wErr] } })).sink = [.pollError .writeFailed] := by
  decide
/-- V9.4, V9.5, V9.6. -/
theorem test_tickEnd :
    (next (step (awaits .poller 0 (.rOk [0x7F, 0, 4, 0xF0, 0xED, 4, 0xEE, 0x10, 0xD6])))).sink =
      [.event 0xED [4], .event 0xEE []] ∧
    (next (step (awaits .poller 0 (.rOk [0x7F, 0, 2, 0xF0, 0xED, 0x6E, 0x22])))).sink = [.pollMalformed 0xED 0 1] ∧
    (next (step (awaits .poller 1 (.rOk [0x7F, 0x80, 1, 0xF5, 0x3D, 0x80])))).sink = [.pollStatus 5 0xF5] := by
  decide
/-- V10.1: `ERR = 0xF` alone. -/
theorem test_illegal_completes :
    (next (step (presents (regs 0x7 0 0 0 [])))).host.res = { Results.blank with err := some 0xF } := by decide

/-! ### Witnesses: for each obligation with hypotheses, a concrete state and operands that meet them together -/

theorem witness_Crc16OperationCompletes :
    (regs 0x1 0 0 0 (List.replicate 1024 0)).op = 0x1 ∧ (regs 0x1 0 0 0 (List.replicate 1024 0)).a.length ≤ 1024 := by
  simp only [regs, List.length_replicate]
  decide

theorem witness_CrcSeesEveryOneByteChange : (0x00 : Byte) ≠ 0x80 := by decide

theorem witness_EncodeCompletesUpTo254 :
    (List.replicate 254 (0 : Byte)).length ≤ 254 ∧ 254 < (List.replicate 255 (0 : Byte)).length := by
  simp only [List.length_replicate]
  decide

theorem witness_DecodeCompletesOnGoodFrames :
    ([] : List Byte).length ≤ 255 ∧ (List.replicate 255 (0 : Byte)).length ≤ 255 := by
  simp only [List.length_replicate]
  decide

/-- Each clause at its boundary: 2 bytes; one byte short of `L = 255`; a wrong checksum (V3.14). -/
theorem witness_DecodeRaisesItsErrors :
    ([0x7F, 0x00] : List Byte).length < 3 ∧
    (List.replicate 256 (0 : Byte)).length < 2 + (0xFF : Byte).toNat ∧
    ([0xF0] : List Byte).length = (0x01 : Byte).toNat ∧
    (0x80 : Byte).toNat + 256 * (0x23 : Byte).toNat ≠ (crc16 [0x80, 0x01, 0xF0]).toNat := by
  simp only [List.length_replicate]
  decide

theorem witness_EncodeThenDecodeRecovers : (List.replicate 254 (0 : Byte)).length ≤ 254 := by
  simp only [List.length_replicate]
  decide

/-- The first and the last offset of each kind: 1, 3 (the command byte), 5 (the last checksum byte). -/
theorem witness_DamagedFramesFailChecksum :
    ([1, 3, 5] : List Nat).all (fun k => decide ((k = 1 ∨ 3 ≤ k) ∧ k < (wireFrame 0x7F 0 [0x07]).length ∧
      (wireFrame 0x7F 0 [0x07])[k]? ≠ some (0x55 : Byte))) = true := by decide

theorem witness_SeqNextCompletes :
    (regs 0x4 0 0 0 []).op = 0x4 ∧ base.lock = .free ∧ (base.setLock .poller).lock ≠ .free := by decide

theorem witness_SeqResetCompletes :
    (regs 0x5 0 0 0 []).op = 0x5 ∧ base.lock = .free ∧ (base.setLock .host).lock ≠ .free := by decide

theorem witness_LockedOperationsHold : (base.setLock .poller).lock ≠ .free := by decide

/-- A run of consecutive `SEQ_NEXT` operations. -/
def seqRun : Nat → State
  | 0 => base
  | n + 1 => next (exec .seqNext (seqRun n))

theorem witness_SeqNextAlternates :
    (seqRun 0).lock = .free ∧ ∀ k < 2, exec .seqNext (seqRun k) = .next (seqRun (k + 1)) := by
  refine ⟨rfl, fun k hk => ?_⟩
  match k, hk with
  | 0, _ => rfl
  | 1, _ => rfl

theorem witness_ResetThenNextYieldsZero : base.lock = .free := rfl

/-- `base` with one scripted answer to the next `TWrite`. -/
def writes (ans : WriteAnswer) : State := { base with inp := { base.inp with writes := [ans] } }

theorem witness_SendStartsExchange :
    (writes (.wOk 3)).lock = .free ∧ (writes (.wOk 3)).connected = true ∧
    (0x07 : Byte) ≠ (writes (.wOk 3)).par.syncCmd ∧ (List.replicate 254 (0 : Byte)).length ≤ 254 ∧
    (writes (.wOk 3)).nextWrite (commandWire 0 0 0x07 (List.replicate 254 0)) = .wOk 3 :=
  ⟨rfl, rfl, by decide, Nat.le_of_eq List.length_replicate, rfl⟩

theorem witness_SyncStartsExchange :
    (Instr.sync [] = .sync [] ∨ Instr.sync [] = .send (writes (.wOk 6)).par.syncCmd []) ∧
    (Instr.send 0x11 [] = .sync [] ∨ Instr.send 0x11 [] = .send (writes (.wOk 6)).par.syncCmd []) ∧
    (writes (.wOk 6)).lock = .free ∧ (writes (.wOk 6)).connected = true ∧
    ([] : List Byte).length ≤ 254 ∧ (writes (.wOk 6)).nextWrite (commandWire 0 0 0x11 []) = .wOk 6 := by decide

/-- Without a script an answer is free and applied to the history: here the frame already written (R62; V2.3). -/
theorem test_free_read_sees_history :
    ((awaits .host 0 .rErr).setInp { base.inp with reads := [] }).nextRead =
      Config.freeRead [.write [0x7F, 0x00, 0x01, 0x07, 0x11, 0x88] (.wOk 6)] 0 := by
  have e : commandWire 0 0 0x07 [] = [0x7F, 0x00, 0x01, 0x07, 0x11, 0x88] := by decide
  rw [← e]
  rfl

theorem witness_SendNeedsConnection :
    (Instr.sync [] = .sync [] ∨ Instr.sync [] = .send 0x07 []) ∧
    (Instr.send 0x07 [] = .sync [] ∨ Instr.send 0x07 [] = .send 0x07 []) ∧
    (base.setConnected false).lock = .free ∧ (base.setConnected false).connected = false := by decide

theorem witness_SendTooLargeConsumesBit :
    base.lock = .free ∧ base.connected = true ∧ 254 < (List.replicate 255 (0 : Byte)).length ∧
    (0x07 : Byte) ≠ base.par.syncCmd := by
  simp only [List.length_replicate]
  decide

theorem witness_SendWriteFailure :
    (writes .wErr).lock = .free ∧ (writes .wErr).connected = true ∧ ([] : List Byte).length ≤ 254 ∧
    (0x07 : Byte) ≠ (writes .wErr).par.syncCmd ∧ (writes .wErr).nextWrite (commandWire 0 0 0x07 []) = .wErr ∧
    (Instr.sync [] = .sync [] ∨ Instr.sync [] = .send (writes .wErr).par.syncCmd []) ∧
    (Instr.send 0x11 [] = .sync [] ∨ Instr.send 0x11 [] = .send (writes .wErr).par.syncCmd []) ∧
    (writes .wErr).nextWrite (commandWire 0 0 0x11 []) = .wErr := by decide

theorem witness_ReplyCompletesHostSend :
    let s := awaits .host 1 (.rOk (wireFrame 0 0x42 (0xF8 :: List.replicate 254 0) ++ [0xDE]))
    s.nextTurn = .host ∧ s.lock = .host ∧ s.xph = .awaitReply ∧ s.xBit = some 1 ∧
    (List.replicate 254 (0 : Byte)).length ≤ 254 ∧
    s.turned.nextRead = .rOk (wireFrame 0 0x42 (0xF8 :: List.replicate 254 0) ++ [0xDE]) :=
  ⟨rfl, rfl, rfl, rfl, Nat.le_of_eq List.length_replicate, rfl⟩

/-- Each way a reply is bad, at a boundary: two bytes; one byte short of a whole frame; V5.10; V5.11. -/
theorem witness_bad_replies :
    BadReply .rErr .readFailed 0x3 ∧ BadReply (.rOk []) .timeout 0x4 ∧ BadReply (.rOk [0x7F, 0]) .truncated 0x5 ∧
    BadReply (.rOk [0x7F, 0x80, 0x01, 0xF0, 0x23]) .truncated 0x5 ∧
    BadReply (.rOk [0x7F, 0x00, 0x01, 0xF0, 0x20, 0x0B]) .checksumMismatch 0x6 ∧
    BadReply (.rOk [0x7F, 0x00, 0x00, 0x0D, 0x80]) .malformedResponse 0x7 := by
  refine ⟨.readFailed, .timeout, .noLength _ (by decide) (by decide), .short 0x7F 0x80 0x01 _ (by decide),
    .checksum 0x7F 0x00 0x01 0x20 0x0B [0xF0] [] rfl (by decide), ?_⟩
  have e : ([0x7F, 0x00, 0x00, 0x0D, 0x80] : List Byte) = wireFrame 0x7F 0x00 [] ++ [] := by decide
  rw [e]
  exact .noStatus 0x7F 0x00 []

theorem witness_BadReplyEndsHostSend :
    (awaits .host 0 .rErr).nextTurn = .host ∧ (awaits .host 0 .rErr).lock = .host ∧
    (awaits .host 0 .rErr).xph = .awaitReply ∧ BadReply (awaits .host 0 .rErr).turned.nextRead .readFailed 0x3 :=
  ⟨rfl, rfl, rfl, .readFailed⟩

/-- `SEND cmd=07` presented, with both transport answers scripted (V5.1). -/
def sends : State :=
  { presents (regs 0x6 0 0x07 0 []) with
    inp :=
      { base.inp with
        turns := [.host, .host], writes := [.wOk 6], reads := [.rOk (wireFrame 0x7F 0 (0xF0 :: []) ++ [])] } }

theorem witness_WholeSendTakesTwoHostTurns :
    sends.inp.turns = [.host, .host] ∧ sends.lock = .free ∧ sends.hostPending = true ∧ sends.connected = true ∧
    decode sends.par.syncCmd sends.host.opnd = .ok (.send 0x07 []) ∧ ([] : List Byte).length ≤ 254 ∧
    sends.nextWrite (commandWire 0 0 0x07 []) = .wOk 6 ∧ sends.inp.writes ≠ [] ∧
    sends.nextRead = .rOk (wireFrame 0x7F 0 (0xF0 :: []) ++ []) ∧ sends.inp.reads ≠ [] := by decide

theorem witness_ExchangeEndReleasesLock :
    (awaits .host 0 .rErr).xph = .awaitReply ∧ (awaits .host 0 .rErr).lock = .host ∧
    (awaits .host 0 .rErr).nextTurn = .host ∧ (awaits .poller 0 .rErr).xph = .awaitReply ∧
    (awaits .poller 0 .rErr).lock = .poller ∧ (awaits .poller 0 .rErr).nextTurn = .poller := by decide

/-- A command of the host whose write fails, then a tick-begin of the poller. -/
def sendThenTick : State :=
  { presents (regs 0x6 0 0x07 0 []) with
    pollRun := .running, inp := { base.inp with turns := [.host, .poller], writes := [.wErr] } }

theorem witness_BitsAlternateAcrossCommands :
    sendThenTick.startsCommand = some 0x07 ∧ step sendThenTick = .next (next (step sendThenTick)) ∧
    RunWhile State.LeavesSequence (next (step sendThenTick)) (next (step sendThenTick)) ∧
    (next (step sendThenTick)).startsCommand = some 0x07 ∧ (0x07 : Byte) ≠ sendThenTick.par.syncCmd :=
  ⟨rfl, rfl, .here _, rfl, by decide⟩

/-- The clauses about a synchronization command and about the first command after reset. -/
theorem witness_BitsAlternateAcrossCommands_sync :
    (presents (regs 0x6 0 0x11 0 [])).startsCommand = some (presents (regs 0x6 0 0x11 0 [])).par.syncCmd ∧
    sends.seq = State.reset.seq ∧ RunWhile State.LeavesSequence sends sends ∧ sends.startsCommand = some 0x07 :=
  ⟨rfl, rfl, .here _, rfl⟩

/-- Each clause one byte short of its length, at the smallest and the largest count. -/
theorem witness_ShortPayloadsAreMalformed :
    (List.replicate 11 (0 : Byte)).length < 12 ∧
    (5 : Byte).toNat < 6 ∧ (List.replicate 254 (0 : Byte)).length < (255 : Byte).toNat ∧
    6 ≤ (6 : Byte).toNat ∧ (List.replicate 7 (0 : Byte)).length < 8 * (1 : Byte).toNat ∧
    (List.replicate 11 (0 : Byte)).length = 11 ∧ (List.replicate 3 (0 : Byte)).length < 4 + 2 * (0 : Byte).toNat ∧
    (List.replicate 513 (0 : Byte)).length < 4 + 2 * (255 : Byte).toNat := by
  simp only [List.length_replicate]
  decide

theorem witness_DigitMultiplierIsExact :
    (List.replicate 8 (0 : Byte)).length = 8 ∧
    (next (exec (.decIdent (List.replicate 8 0 ++ 0xFF :: 0xFF :: 0xFF :: [0])) base)).host.res.err = some 0 ∧
    (next (exec (.decSetup (List.replicate 8 0 ++ 0xFF :: 0xFF :: 0xFF :: [0, 0, 0, 0, 0])) base)).host.res.err =
      some 0 := by decide

theorem witness_DecChanLegacyCompletes :
    (5 : Byte).toNat < 6 ∧ ([] : List Byte).length = (0 : Byte).toNat ∧
    (List.replicate 255 (0 : Byte)).length = (255 : Byte).toNat := by
  simp only [List.length_replicate]
  decide

/-- One channel that says 'use extended value'. -/
def channel : ChannelRecord := { valueByte := 0, country := #v[0x45, 0x55, 0x52], full := #v[0xE8, 3, 0, 0] }

theorem witness_DecChanExtendedCompletes :
    6 ≤ (6 : Byte).toNat ∧ 6 ≤ (255 : Byte).toNat ∧ ([] : List ChannelRecord).length = (0 : Byte).toNat ∧
    [channel].length = (1 : Byte).toNat ∧ base.par.layout = .interleaved ∧
    ({ base with par := { par with layout := .arrays } } : State).par.layout = .arrays := by decide

theorem witness_DecSetupCompletes :
    ([] : List Byte).length = (0 : Byte).toNat ∧ ([5] : List Byte).length = (1 : Byte).toNat := by decide

theorem witness_StatusAndUnitTypeClassification : par.status.wf = true ∧ par.units.wf = true := by decide

theorem witness_PollOperationsComplete : (regs 0xC 0 0 0 []).op = 0xC ∧ (regs 0xD 0 0 0 []).op = 0xD := by decide

theorem witness_TickBeginStartsPoll :
    let s : State := { ticks with inp := { ticks.inp with writes := [.wOk 6] } }
    s.nextTurn = .poller ∧ s.pollRun = .running ∧ s.lock = .free ∧ s.connected = true ∧
    s.par.pollCmd ≠ s.par.syncCmd ∧ s.turned.nextWrite (commandWire 0 0 0x07 []) = .wOk 6 := by decide

theorem witness_TickBeginFailurePublishes :
    let s : State := { ticks with inp := { ticks.inp with writes := [.wErr] } }
    s.nextTurn = .poller ∧ s.pollRun = .running ∧ s.lock = .free ∧ (s.setConnected false).connected = false ∧
    s.connected = true ∧ s.par.pollCmd ≠ s.par.syncCmd ∧ s.turned.nextWrite (commandWire 0 0 0x07 []) = .wErr := by decide

/-- A reply with one whole event and a cut one. -/
theorem witness_TickEndPublishesEvents :
    let s := awaits .poller 0 (.rOk (wireFrame 0x7F 0 (0xF0 :: ([0xED, 4] ++ [0xED])) ++ []))
    s.nextTurn = .poller ∧ s.lock = .poller ∧ s.xph = .awaitReply ∧ s.xBit = some 0 ∧
    ([4] : List Byte).length = argLen s.par 0xED ∧ ([] : List Byte).length < argLen s.par 0xED ∧
    s.turned.nextRead = .rOk (wireFrame 0x7F 0 (0xF0 :: ([0xED, 4] ++ [0xED])) ++ []) := by decide

theorem witness_TickEndReportsErrorOrStatus :
    let s := awaits .poller 1 (.rOk (wireFrame 0x7F 0x80 [0xF5] ++ []))
    (awaits .poller 0 (.rOk [])).nextTurn = .poller ∧ (awaits .poller 0 (.rOk [])).lock = .poller ∧
    (awaits .poller 0 (.rOk [])).xph = .awaitReply ∧ (awaits .poller 0 (.rOk [])).turned.nextRead = .rOk [] ∧
    s.nextTurn = .poller ∧ s.lock = .poller ∧ s.xph = .awaitReply ∧ s.xBit = some 1 ∧ (0xF5 : Byte) ≠ 0xF0 ∧
    s.turned.nextRead = .rOk (wireFrame 0x7F 0x80 [0xF5] ++ []) := by decide

theorem witness_PollerLeavesHostPort : ticks.nextTurn = .poller := rfl

theorem witness_StoppedPollerWritesNothing :
    RunWhile (fun m => m.pollRun = .stopped) (awaits .poller 0 .rErr) (next (step (awaits .poller 0 .rErr))) :=
  .more rfl rfl (.here _)

theorem witness_OnlyPollOperationsChangePollRun :
    step (presents (regs 0xC 0 0 0 [])) = .next (next (step (presents (regs 0xC 0 0 0 [])))) ∧
    (next (step (presents (regs 0xC 0 0 0 [])))).pollRun ≠ (presents (regs 0xC 0 0 0 [])).pollRun :=
  ⟨rfl, by decide⟩

theorem witness_OnlySequenceStepsChangeSeq :
    step (presents (regs 0x4 0 0 0 [])) = .next (next (step (presents (regs 0x4 0 0 0 [])))) ∧
    (next (step (presents (regs 0x4 0 0 0 [])))).seq ≠ (presents (regs 0x4 0 0 0 [])).seq :=
  ⟨rfl, by decide⟩

theorem witness_OnlyExchangesChangeLock :
    step sends = .next (next (step sends)) ∧ (next (step sends)).lock ≠ sends.lock ∧
    step (awaits .poller 0 .rErr) = .next (next (step (awaits .poller 0 .rErr))) ∧
    (next (step (awaits .poller 0 .rErr))).lock ≠ (awaits .poller 0 .rErr).lock :=
  ⟨rfl, by decide, rfl, by decide +kernel⟩

theorem witness_ConfigurationNeverChanges :
    step ticks = .next (next (step ticks)) ∧ (∀ b, ticks.nextTurn ≠ .setConnected b) ∧
    ({ base with inp := { base.inp with turns := [.setConnected false] } } : State).nextTurn = .setConnected false :=
  ⟨rfl, fun _ => Turn.noConfusion, rfl⟩

theorem witness_StepRunsPresentedOperation : (presents (regs 0x9 0 0 6 [2])).Runs (.decChan 6 [2]) :=
  ⟨rfl, rfl, rfl, rfl⟩

theorem witness_OperationTableSelects :
    (regs 0x6 0 0x07 0 []).a.length ≤ 1024 ∧ (regs 0x6 0 0x07 0 []).op = 0x6 ∧ (regs 0x6 0 0x07 0 []).cmd ≠ 0x11 ∧
    (regs 0x6 0 0x11 0 []).op = 0x6 ∧ (regs 0x6 0 0x11 0 []).cmd = 0x11 ∧
    (regs 0xF 0 0 0 []).op ∈ ([0x0, 0x7, 0xB, 0xE, 0xF] : List (BitVec 4)) := by decide

theorem witness_UnassignedCodesAreIllegal :
    (presents (regs 0xF 0 0 0 [])).nextTurn = .host ∧ (presents (regs 0xF 0 0 0 [])).hostAwaits = false ∧
    (presents (regs 0xF 0 0 0 [])).hostPending = true ∧
    (presents (regs 0xF 0 0 0 [])).host.opnd.op ∈ ([0x0, 0x7, 0xB, 0xE, 0xF] : List (BitVec 4)) := by decide

theorem witness_DecodeOfEncode : (Instr.encode 0x80 0x02 [0xFF, 0xFF]).wellFormed 0x11 = true := by decide

theorem witness_DecodeReadsOnlyItsOperands :
    decode 0x11 (regs 0x9 1 2 6 [4]) = .ok (.decChan 6 [4]) ∧
    (operandsRead (.decChan 6 [4])).Agree (regs 0x9 1 2 6 [4]) (regs 0x9 0 0 6 [4]) := by
  refine ⟨by decide, rfl, ?_, ?_, ?_, ?_⟩ <;> decide

/-- A state in the middle of the host's exchange satisfies the whole invariant. -/
theorem witness_awaits_inv : (awaits .host 0 .rErr).Inv := by
  have blank : Results.blank.Wf :=
    ⟨rfl, .inl rfl, .inl rfl, .inl rfl, .inl rfl, .inl rfl, .inl rfl, fun _ => rfl, fun _ h => by cases h⟩
  refine ⟨by decide, ⟨by decide, by decide⟩, fun _ => rfl, ⟨rfl, by decide, fun _ => ?_⟩, rfl, ⟨blank, blank⟩,
    by decide, by decide +kernel, by decide +kernel, by decide +kernel, by decide⟩
  exact ⟨0, 0x07, [], rfl, by decide, rfl⟩

theorem witness_StepKeepsInvariant :
    (awaits .host 0 .rErr).Inv ∧ step (awaits .host 0 .rErr) = .next (next (step (awaits .host 0 .rErr))) :=
  ⟨witness_awaits_inv, rfl⟩

theorem witness_LockInvariantIsKept :
    (awaits .host 0 .rErr).LockInv ∧ step (awaits .host 0 .rErr) = .next (next (step (awaits .host 0 .rErr))) :=
  ⟨witness_awaits_inv.2.1, rfl⟩

theorem witness_TransportCallsStaySerialised :
    (awaits .host 0 .rErr).SerialInv ∧ step (awaits .host 0 .rErr) = .next (next (step (awaits .host 0 .rErr))) :=
  ⟨rfl, rfl⟩

theorem witness_NothingStopsTheMachine : (awaits .host 0 .rErr).Inv := witness_awaits_inv

/-- Two states that differ in the poller's port and the sink; and one whose step is refused. -/
theorem witness_HostCannotSeePollerPort :
    ticks.SameButPoller { ticks with poller := { opnd := regs 1 2 3 4 [5], res := Results.success },
                                     sink := [.pollError .timeout] } ∧
    step ticks = .next (next (step ticks)) ∧
    step (presents (regs 0x1 0 0 0 overlong)) = .refused .operandTooLong := by
  refine ⟨rfl, rfl, ?_⟩
  have h : (presents (regs 0x1 0 0 0 overlong)).turned.fetch = .error .operandTooLong := test_decode_overlong
  rcases hostTurn_cases (presents (regs 0x1 0 0 0 overlong)).turned with ⟨a, _⟩ | ⟨_, _, i, a, _⟩ | ⟨_, _, a, _⟩ |
    ⟨_, _, _, e⟩ | ⟨_, a, _⟩ | ⟨_, a, _⟩
  · cases a
  · rw [h] at a
    cases a
  · rw [h] at a
    cases a
  · exact e
  · cases a
  · cases a

theorem witness_PureOperationsIgnoreEngineState :
    isPure (.decIdent [1]) = true ∧ base.par = (awaits .poller 0 .rErr).par := ⟨rfl, rfl⟩

theorem witness_TickEndCommutesWithLockFreeOperations :
    isPure (.crc16 [1]) = true ∧ (awaits .poller 0 .rErr).lock = .poller ∧
    (awaits .poller 0 .rErr).xph = .awaitReply ∧
    exec .pollStop (awaits .poller 0 .rErr) = .next (next (exec .pollStop (awaits .poller 0 .rErr))) ∧
    runTurn .poller (awaits .poller 0 .rErr) = .next (next (runTurn .poller (awaits .poller 0 .rErr))) :=
  ⟨rfl, rfl, rfl, rfl, rfl⟩

theorem witness_QuiescentStateIsStill :
    ({ base with inp := { base.inp with turns := [.poller] } } : State).Quiescent ∧
    ({ base with inp := { base.inp with turns := [.poller] } } : State).nextTurn = .poller :=
  ⟨⟨rfl, rfl, rfl, rfl, rfl⟩, rfl⟩

end Sys2Proof.Tests
end

section
/-! The state after reset, R37: one lemma per row of its table that has a value or says there is none. -/

namespace Sys2Proof.Machine

/-! ### State.reset -/

@[simp] theorem State.reset_seq : State.reset.seq = 0 := rfl
@[simp] theorem State.reset_lock : State.reset.lock = .free := rfl
@[simp] theorem State.reset_xph : State.reset.xph = .idle := rfl
@[simp] theorem State.reset_pollRun : State.reset.pollRun = .stopped := rfl
@[simp] theorem State.reset_cfg :
    State.reset.cfg =
      { port := Config.cfgPort, baud := Config.cfgBaud, addr := Config.cfgAddr, timeout := Config.cfgTimeout } := rfl
@[simp] theorem State.reset_host : State.reset.host = Port.reset := rfl
@[simp] theorem State.reset_poller : State.reset.poller = Port.reset := rfl
@[simp] theorem Port.reset_res : Port.reset.res = Results.blank := rfl
@[simp] theorem State.reset_txBuf : State.reset.txBuf = [] := rfl
@[simp] theorem State.reset_rxBuf : State.reset.rxBuf = [] := rfl

/-- No result register of the host port has a value (R27, R37). -/
theorem State.reset_host_res : State.reset.host.res = Results.blank := by
  rw [State.reset_host, Port.reset_res]

/-- No result register of the poller's port has a value (R27, R37). -/
theorem State.reset_poller_res : State.reset.poller.res = Results.blank := by
  rw [State.reset_poller, Port.reset_res]

/-- Settles O50: the rows of R37's table, one by one. -/
theorem resetStateValues : Obligations.ResetStateValues := by
  unfold Obligations.ResetStateValues
  exact ⟨State.reset_seq, State.reset_lock, State.reset_xph, State.reset_pollRun, State.reset_cfg,
    State.reset_host_res, State.reset_poller_res, State.reset_txBuf, State.reset_rxBuf⟩

end Sys2Proof.Machine
end

section
/-! What the operation table selects, R100 and R101: one equation of `decode` per code. -/

namespace Sys2Proof

/-- An operand string the buffer holds is no reason to refuse (R101). -/
theorem withBuffer_of_length_le {a : List Byte} (h : a.length ≤ 1024) (i : Instr) : withBuffer a i = .ok i :=
  if_pos (decide_eq_true h)

section
variable {r : OperandRegs} (syncCmd : Byte)

theorem decode_of_op_crc16 (h : r.op = 0x1) : decode syncCmd r = withBuffer r.a (.crc16 r.a) := by
  simp [decode, h]

theorem decode_of_op_encode (h : r.op = 0x2) :
    decode syncCmd r = withBuffer r.a (.encode r.seqAddr r.cmd r.a) := by
  simp [decode, h]

theorem decode_of_op_decode (h : r.op = 0x3) : decode syncCmd r = withBuffer r.a (.decode r.a) := by
  simp [decode, h]

theorem decode_of_op_seqNext (h : r.op = 0x4) : decode syncCmd r = .ok .seqNext := by
  simp [decode, h]

theorem decode_of_op_seqReset (h : r.op = 0x5) : decode syncCmd r = .ok .seqReset := by
  simp [decode, h]

/-- R174: the synchronization command is told apart by the value of `A_CMD` alone. -/
theorem decode_of_op_send (h : r.op = 0x6) (hc : r.cmd ≠ syncCmd) :
    decode syncCmd r = withBuffer r.a (.send r.cmd r.a) := by
  simp [decode, h, hc]

theorem decode_of_op_sync (h : r.op = 0x6) (hc : r.cmd = syncCmd) :
    decode syncCmd r = withBuffer r.a (.sync r.a) := by
  simp [decode, h, hc]

theorem decode_of_op_decIdent (h : r.op = 0x8) : decode syncCmd r = withBuffer r.a (.decIdent r.a) := by
  simp [decode, h]

theorem decode_of_op_decChan (h : r.op = 0x9) : decode syncCmd r = withBuffer r.a (.decChan r.ver r.a) := by
  simp [decode, h]

theorem decode_of_op_decSetup (h : r.op = 0xA) : decode syncCmd r = withBuffer r.a (.decSetup r.a) := by
  simp [decode, h]

theorem decode_of_op_pollStart (h : r.op = 0xC) : decode syncCmd r = .ok .pollStart := by
  simp [decode, h]

theorem decode_of_op_pollStop (h : r.op = 0xD) : decode syncCmd r = .ok .pollStop := by
  simp [decode, h]

/-- R101: the five unassigned codes. -/
theorem decode_of_op_unassigned (h : r.op ∈ ([0x0, 0x7, 0xB, 0xE, 0xF] : List (BitVec 4))) :
    decode syncCmd r = .error .illegalOp := by
  simp only [List.mem_cons, List.not_mem_nil, or_false] at h
  rcases h with h | h | h | h | h <;> simp [decode, h]

end

/-- Settles O45: the rows of the table, one by one; the string of at most 1024 bytes passes the buffer test. -/
theorem operationTableSelects : Obligations.OperationTableSelects := by
  unfold Obligations.OperationTableSelects
  intro syncCmd r ha
  have fits (i : Instr) : withBuffer r.a i = .ok i := withBuffer_of_length_le ha i
  exact
    ⟨fun h => (decode_of_op_crc16 syncCmd h).trans (fits _),
      fun h => (decode_of_op_encode syncCmd h).trans (fits _),
      fun h => (decode_of_op_decode syncCmd h).trans (fits _),
      decode_of_op_seqNext syncCmd,
      decode_of_op_seqReset syncCmd,
      fun h hc => (decode_of_op_send syncCmd h hc).trans (fits _),
      fun h hc => (decode_of_op_sync syncCmd h hc).trans (fits _),
      fun h => (decode_of_op_decIdent syncCmd h).trans (fits _),
      fun h => (decode_of_op_decChan syncCmd h).trans (fits _),
      fun h => (decode_of_op_decSetup syncCmd h).trans (fits _),
      decode_of_op_pollStart syncCmd,
      decode_of_op_pollStop syncCmd,
      decode_of_op_unassigned syncCmd⟩

end Sys2Proof
end

section
/-! How a status byte and a unit-type byte are classified, R92 and R94: the number is the byte's position in the list of
the codes, which R8 keeps free of repetitions, and the length of the list when the byte is in no row. -/

namespace Sys2Proof

@[simp] theorem StatusCodes.length_list (c : StatusCodes) : c.list.length = 8 := rfl

theorem StatusCodes.nodup_of_wf {c : StatusCodes} (h : c.wf = true) : c.list.Nodup := by
  obtain ⟨hnodup, _⟩ := Bool.and_eq_true_iff.mp h
  exact of_decide_eq_true hnodup

/-- The four unit-type codes in the order of `U_TYPE` 0 to 3 (R94). -/
def UnitCodes.list (u : UnitCodes) : List Byte := [Config.utValidator, u.hopper, u.payout, u.combined]

@[simp] theorem UnitCodes.length_list (u : UnitCodes) : u.list.length = 4 := rfl

theorem UnitCodes.nodup_of_wf {u : UnitCodes} (h : u.wf = true) : u.list.Nodup :=
  of_decide_eq_true h

end Sys2Proof

namespace Sys2Proof.Machine

/-! ### Positions in a list of codes -/

/-- The position as the chain of tests a classification makes. -/
theorem idxOf_cons_eq_ite (x b : Byte) (l : List Byte) :
    (x :: l).idxOf b = if b = x then 0 else l.idxOf b + 1 := by
  split
  next h => exact List.idxOf_cons_eq l h.symm
  next h => exact List.idxOf_cons_ne l (Ne.symm h)

/-- In a list without repetitions, a position below the length is the byte's exactly when the byte stands there. -/
theorem idxOf_eq_iff_getElem? {l : List Byte} (hl : l.Nodup) {b : Byte} {k : Nat} (hk : k < l.length) :
    l.idxOf b = k ↔ l[k]? = some b := by
  constructor
  · rintro rfl
    exact List.getElem?_idxOf (List.idxOf_lt_length_iff.mp hk)
  · intro h
    obtain ⟨_, rfl⟩ := List.getElem?_eq_some_iff.mp h
    exact hl.idxOf_getElem k hk

/-- Words of numbers that fit `w` bits are equal only when the numbers are. -/
theorem ofNat_inj_of_lt {w m n : Nat} (hm : m < 2 ^ w) (hn : n < 2 ^ w) :
    BitVec.ofNat w m = BitVec.ofNat w n ↔ m = n := by
  rw [← BitVec.toNat_inj, BitVec.toNat_ofNat, BitVec.toNat_ofNat, Nat.mod_eq_of_lt hm, Nat.mod_eq_of_lt hn]

theorem ofNat_idxOf_eq_iff_getElem? {l : List Byte} {w : Nat} (hw : l.length < 2 ^ w) (hl : l.Nodup) {b : Byte}
    {k : Nat} (hk : k < l.length) : BitVec.ofNat w (l.idxOf b) = BitVec.ofNat w k ↔ l[k]? = some b := by
  have hb : l.idxOf b ≤ l.length := List.idxOf_le_length
  rw [ofNat_inj_of_lt (by omega) (by omega), idxOf_eq_iff_getElem? hl hk]

theorem ofNat_idxOf_eq_length_iff {l : List Byte} {w : Nat} (hw : l.length < 2 ^ w) {b : Byte} :
    BitVec.ofNat w (l.idxOf b) = BitVec.ofNat w l.length ↔ b ∉ l := by
  have hb : l.idxOf b ≤ l.length := List.idxOf_le_length
  rw [ofNat_inj_of_lt (by omega) hw, List.idxOf_eq_length_iff]

/-! ### Status bytes -/

/-- R91, R92: `R_STATUS` is the byte's position among the eight codes, which is 8 when it is none of them. -/
theorem statusOf_code_eq_idxOf (c : StatusCodes) (b : Byte) :
    (statusOf c b).code = BitVec.ofNat 4 (c.list.idxOf b) := by
  simp only [statusOf, StatusCodes.list, idxOf_cons_eq_ite]
  split_ifs <;> rfl

theorem statusOf_code_eq_iff {c : StatusCodes} (hc : c.wf = true) {k : Nat} (hk : k < 8) (b : Byte) :
    (statusOf c b).code = BitVec.ofNat 4 k ↔ c.list[k]? = some b := by
  rw [statusOf_code_eq_idxOf]
  exact ofNat_idxOf_eq_iff_getElem? (by simp) (StatusCodes.nodup_of_wf hc) hk

/-- R92, R93: `UNRECOGNISED` is the number of no row. -/
theorem statusOf_code_eq_unrecognised_iff (c : StatusCodes) (b : Byte) :
    (statusOf c b).code = 8 ↔ b ∉ c.list := by
  rw [statusOf_code_eq_idxOf]
  exact ofNat_idxOf_eq_length_iff (by simp)

/-! ### Unit-type bytes -/

/-- R94: `U_TYPE` is the byte's position among the four codes, which is 4 when it is none of them. -/
theorem unitTypeOf_code_eq_idxOf (u : UnitCodes) (b : Byte) :
    (unitTypeOf u b).code = BitVec.ofNat 3 (u.list.idxOf b) := by
  simp only [unitTypeOf, UnitCodes.list, idxOf_cons_eq_ite]
  split_ifs <;> rfl

theorem unitTypeOf_code_eq_iff {u : UnitCodes} (hu : u.wf = true) {k : Nat} (hk : k < 4) (b : Byte) :
    (unitTypeOf u b).code = BitVec.ofNat 3 k ↔ b = u.list[k] := by
  rw [unitTypeOf_code_eq_idxOf, ofNat_idxOf_eq_iff_getElem? (by simp) (UnitCodes.nodup_of_wf hu) hk,
    List.getElem?_eq_getElem hk, Option.some_inj, eq_comm]

theorem unitTypeOf_code_eq_unknown_iff (u : UnitCodes) (b : Byte) :
    (unitTypeOf u b).code = 4 ↔ b ∉ u.list := by
  rw [unitTypeOf_code_eq_idxOf]
  exact ofNat_idxOf_eq_length_iff (by simp)

/-- Settles O32: both numbers are positions in a list of codes that R8 keeps free of repetitions. -/
theorem statusAndUnitTypeClassification : Obligations.StatusAndUnitTypeClassification := by
  unfold Obligations.StatusAndUnitTypeClassification
  constructor
  · intro c b hc
    exact ⟨fun k hk => statusOf_code_eq_iff hc hk b, statusOf_code_eq_unrecognised_iff c b⟩
  · intro u b hu
    have row {k : Nat} (hk : k < 4) := unitTypeOf_code_eq_iff hu hk b
    exact ⟨row (k := 0) (by decide), row (k := 1) (by decide), row (k := 2) (by decide), row (k := 3) (by decide),
      unitTypeOf_code_eq_unknown_iff u b⟩

end Sys2Proof.Machine
end

section
/-! The CRC Engine, R120 to R123: the word arithmetic of the byte step is the arithmetic of R120 on natural numbers below
65536, round by round; and the operation `CRC16`. -/

namespace Sys2Proof.Machine

/-- The test of bit 15, on the number. -/
theorem msb_eq_true_iff_toNat (acc : Word16) : acc.msb = true ↔ acc.toNat / 32768 % 2 = 1 := by
  have hlt := acc.isLt
  rw [BitVec.msb_eq_decide, decide_eq_true_iff]
  omega

/-- The shift by one, truncated to 16 bits. -/
theorem toNat_shiftLeft_one (acc : Word16) : (acc <<< 1).toNat = acc.toNat * 2 % 65536 := by
  simp [BitVec.toNat_shiftLeft, Nat.shiftLeft_eq]

theorem toNat_crcRound (acc : Word16) : (crcRound acc).toNat = crcReferenceRound acc.toNat := by
  by_cases h : acc.msb = true
  · rw [crcRound, crcReferenceRound, if_pos h, if_pos ((msb_eq_true_iff_toNat acc).mp h), BitVec.toNat_xor,
      toNat_shiftLeft_one]
    rfl
  · rw [crcRound, crcReferenceRound, if_neg h, if_neg (mt (msb_eq_true_iff_toNat acc).mpr h), toNat_shiftLeft_one]

theorem toNat_crcRounds (n : Nat) (acc : Word16) :
    (crcRounds n acc).toNat = Nat.iterate crcReferenceRound n acc.toNat := by
  induction n generalizing acc with
  | zero => rfl
  | succ n ih => rw [crcRounds, ih, toNat_crcRound, Function.iterate_succ_apply]

/-- A byte moved into bits 15:8 loses no bit. -/
theorem toNat_byte_shiftLeft_eight (b : Byte) : (b.setWidth 16 <<< 8).toNat = b.toNat * 256 := by
  have hlt := b.isLt
  simp only [BitVec.toNat_shiftLeft, BitVec.toNat_setWidth, Nat.shiftLeft_eq]
  omega

theorem toNat_crcByte (acc : Word16) (b : Byte) :
    (crcByte acc b).toNat = Nat.iterate crcReferenceRound 8 (acc.toNat ^^^ (b.toNat * 256)) := by
  rw [crcByte, toNat_crcRounds, BitVec.toNat_xor, toNat_byte_shiftLeft_eight]

/-- The outer loop, from any accumulator. -/
theorem toNat_crcFold (bytes : List Byte) (acc : Word16) : (crcFold bytes acc).toNat = crcReference bytes acc.toNat := by
  induction bytes generalizing acc with
  | nil => rfl
  | cons b rest ih => rw [crcFold, evaluated_eq, ih, toNat_crcByte, crcReference]

/-- Settles O2: the fold of the byte step, from `CRC_INIT`. -/
theorem crc16IsTheTwoLoopDefinition : Obligations.Crc16IsTheTwoLoopDefinition := by
  unfold Obligations.Crc16IsTheTwoLoopDefinition
  intro bytes
  exact toNat_crcFold bytes Config.crcInit

/-- R123: `CRC16` completes on the host port with its results, whatever the state. -/
theorem exec_crc16 (a : List Byte) (s : State) : exec (.crc16 a) s = .next (s.hostDone (crcResults a)) := rfl

/-- R123: the results written, the two bytes low first; every other result register is blank. -/
theorem crcResults_eq (a : List Byte) :
    crcResults a =
      { Results.blank with
        err := some 0, crc := some (crc16 a), rLen := some 2,
        rBuf := [(crc16 a).extractLsb' 0 8, (crc16 a).extractLsb' 8 8] } := rfl

/-- Settles O1: the code by the row of the operation table, the completion by what `CRC16` answers. -/
theorem crc16OperationCompletes : Obligations.Crc16OperationCompletes := by
  unfold Obligations.Crc16OperationCompletes
  constructor
  · intro syncCmd r hop hlen
    exact (decode_of_op_crc16 syncCmd hop).trans (withBuffer_of_length_le hlen _)
  · intro a s
    rw [exec_crc16, crcResults_eq]

end Sys2Proof.Machine
end

section
/-! The Frame Codec, R131 to R150: `ENCODE` and `DECODE` as operations of the host port. Each lemma carries one answer of
`encodeFrame` or `decodeFrame` over to the completion it makes. -/

namespace Sys2Proof.Machine

@[simp] theorem State.hostDone_host_res (r : Results) (s : State) : (s.hostDone r).host.res = r := rfl

/-- R270: an error raised on the host port ends the operation with its code. -/
theorem raise_host_eq_hostErr (e : ErrKind) (s : State) : s.raise .host e = s.hostErr e.code := rfl

/-! ### ENCODE -/

theorem exec_encode_of_ok {sa cmd : Byte} {data frame : List Byte} (h : encodeFrame sa cmd data = .ok frame)
    (s : State) : exec (.encode sa cmd data) s = .next (s.hostDone (encodeResults frame)) := by
  change execEncode sa cmd data s = _
  rw [execEncode, h]
  rfl

theorem exec_encode_of_error {sa cmd : Byte} {data : List Byte} {e : ErrKind}
    (h : encodeFrame sa cmd data = .error e) (s : State) :
    exec (.encode sa cmd data) s = .next (s.hostErr e.code) := by
  change execEncode sa cmd data s = _
  rw [execEncode, h, ← raise_host_eq_hostErr]

/-- R131: `ENCODE` returns the wire frame of the command byte and the data. -/
theorem exec_encode_of_length_le {data : List Byte} (h : data.length ≤ 254) (sa cmd : Byte) (s : State) :
    exec (.encode sa cmd data) s = .next (s.hostDone (encodeResults (wireFrame 0x7F sa (cmd :: data)))) := by
  have hok : encodeFrame sa cmd data = .ok (wireFrame 0x7F sa (cmd :: data)) := by
    rw [encodeFrame_eq, if_pos (show data.length ≤ Config.dataMax from h), commandFrame_eq_wireFrame]
  exact exec_encode_of_ok hok s

/-- R132: more data than the length byte can count is `FrameTooLarge`. -/
theorem exec_encode_of_length_gt {data : List Byte} (h : 254 < data.length) (sa cmd : Byte) (s : State) :
    exec (.encode sa cmd data) s = .next (s.hostErr 0x8) := by
  have herr : encodeFrame sa cmd data = .error .frameTooLarge := by
    rw [encodeFrame_eq, if_neg (show ¬ data.length ≤ Config.dataMax from Nat.not_le.mpr h)]
  exact exec_encode_of_error herr s

/-- R86, R131: the results of `ENCODE`, with the length of the frame in terms of the data. -/
theorem encodeResults_wireFrame (sa cmd : Byte) (data : List Byte) :
    encodeResults (wireFrame 0x7F sa (cmd :: data)) =
      { Results.blank with
        err := some 0, rLen := some (BitVec.ofNat 11 (6 + data.length)), rBuf := wireFrame 0x7F sa (cmd :: data) } := by
  have hlen : (wireFrame 0x7F sa (cmd :: data)).length = 6 + data.length := by
    rw [wireFrame_length, List.length_cons]
    omega
  rw [encodeResults, hlen]
  rfl

/-- Settles O6: the length byte counts the command byte too, so it holds up to 254 data bytes. -/
theorem encodeCompletesUpTo254 : Obligations.EncodeCompletesUpTo254 := by
  unfold Obligations.EncodeCompletesUpTo254
  intro sa cmd data s
  constructor
  · intro h
    rw [exec_encode_of_length_le h, encodeResults_wireFrame]
  · intro h
    exact exec_encode_of_length_gt h sa cmd s

/-! ### DECODE -/

theorem exec_decode_of_ok {raw : List Byte} {f : Frame} (h : decodeFrame raw = .ok f) (s : State) :
    exec (.decode raw) s = .next (s.hostDone (decodeResults f)) := by
  change execDecode raw s = _
  rw [execDecode, h]
  rfl

theorem exec_decode_of_error {raw : List Byte} {e : ErrKind} (h : decodeFrame raw = .error e) (s : State) :
    exec (.decode raw) s = .next (s.hostErr e.code) := by
  change execDecode raw s = _
  rw [execDecode, h, ← raise_host_eq_hostErr]

/-- R141: a string without a length byte is `Truncated`. -/
theorem decodeFrame_of_length_lt_three {raw : List Byte} (h : raw.length < 3) :
    decodeFrame raw = .error .truncated :=
  if_pos h

/-- R144, R149: a whole declared frame whose two bytes after the payload are not the checksum of its body. -/
theorem decodeFrame_wrong_checksum {st sa len lo hi : Byte} {payload : List Byte} (extra : List Byte)
    (hlen : payload.length = len.toNat)
    (hcrc : lo.toNat + 256 * hi.toNat ≠ (crc16 (sa :: len :: payload)).toNat) :
    decodeFrame (st :: sa :: len :: payload ++ lo :: hi :: extra) = .error .checksumMismatch := by
  rw [decodeFrame_declared _ _ _ _ _ _ _ hlen, if_neg hcrc]

/-- Settles O8: the three tests of `DECODE`, in their order. -/
theorem decodeRaisesItsErrors : Obligations.DecodeRaisesItsErrors := by
  unfold Obligations.DecodeRaisesItsErrors
  refine ⟨?noLengthByte, ?shortOfDeclared, ?wrongChecksum⟩
  case noLengthByte =>
    intro raw s h
    exact exec_decode_of_error (decodeFrame_of_length_lt_three h) s
  case shortOfDeclared =>
    intro st sa len rest s h
    exact exec_decode_of_error (decodeFrame_short st sa len rest h) s
  case wrongChecksum =>
    intro st sa len lo hi payload extra s hlen hcrc
    exact exec_decode_of_error (decodeFrame_wrong_checksum extra hlen hcrc) s

/-- R140, R143, R146: `DECODE` of a frame with a right checksum returns the declared slice, whatever its start byte and
whatever follows it. -/
theorem exec_decode_wireFrame {payload : List Byte} (h : payload.length ≤ 255) (st sa : Byte) (extra : List Byte)
    (s : State) :
    exec (.decode (wireFrame st sa payload ++ extra)) s = .next (s.hostDone
      { Results.blank with
        err := some 0, start := some st, seqAddr := some sa, fLen := some (BitVec.ofNat 8 payload.length),
        rLen := some (BitVec.ofNat 11 payload.length), rBuf := payload,
        crc := some (crc16 (sa :: BitVec.ofNat 8 payload.length :: payload)) }) :=
  exec_decode_of_ok (decodeFrame_wireFrame st sa payload extra h) s

/-- Settles O9: what `ENCODE` returns is the wire frame of the payload `cmd :: data`, and `DECODE` reads any wire frame
back. -/
theorem encodeThenDecodeRecovers : Obligations.EncodeThenDecodeRecovers := by
  unfold Obligations.EncodeThenDecodeRecovers
  intro sa cmd data s h
  refine ⟨_, exec_encode_of_length_le h sa cmd s, ?_⟩
  intro extra u
  have hframe : (encodeResults (wireFrame 0x7F sa (cmd :: data))).rBuf = wireFrame 0x7F sa (cmd :: data) := rfl
  have hlen : (cmd :: data).length = 1 + data.length := by
    rw [List.length_cons, Nat.add_comm]
  rw [State.hostDone_host_res, hframe, exec_decode_wireFrame (by omega), hlen]

end Sys2Proof.Machine
end

section
/-! The Sequence Controller, R160 to R164: `SEQ_NEXT` and `SEQ_RESET` as operations of the host port, completed with the
lock free and held otherwise. -/

namespace Sys2Proof.Machine

/-! ### SEQ_NEXT -/

/-- The state after a completed `SEQ_NEXT` (R160). -/
def State.seqNextDone (s : State) : State :=
  { s.hostDone { Results.blank with err := some 0, bit := some s.seq } with seq := s.seq ^^^ 1 }

@[simp] theorem State.seqNextDone_seq (s : State) : s.seqNextDone.seq = s.seq ^^^ 1 := rfl
@[simp] theorem State.seqNextDone_lock (s : State) : s.seqNextDone.lock = s.lock := rfl
@[simp] theorem State.seqNextDone_bit (s : State) : s.seqNextDone.host.res.bit = some s.seq := rfl

/-- R160: with the lock free, the bit before the flip is returned and `SEQ` flips. -/
theorem exec_seqNext_of_lock_free {s : State} (h : s.lock = .free) : exec .seqNext s = .next s.seqNextDone :=
  if_pos h

/-- R164: while an exchange is in progress `SEQ_NEXT` holds. -/
theorem exec_seqNext_of_lock_ne_free {s : State} (h : s.lock ≠ .free) : exec .seqNext s = .next s :=
  if_neg h

/-- Settles O11: the code by the row of the operation table, the two answers by the test of the lock. -/
theorem seqNextCompletes : Obligations.SeqNextCompletes := by
  unfold Obligations.SeqNextCompletes
  exact ⟨fun syncCmd _ => decode_of_op_seqNext syncCmd,
    fun _ => ⟨exec_seqNext_of_lock_free, exec_seqNext_of_lock_ne_free⟩⟩

/-! ### SEQ_RESET -/

/-- The state after a completed `SEQ_RESET` (R162). -/
def State.seqResetDone (s : State) : State :=
  { s.hostDone { Results.blank with err := some 0 } with seq := 0 }

@[simp] theorem State.seqResetDone_seq (s : State) : s.seqResetDone.seq = 0 := rfl
@[simp] theorem State.seqResetDone_lock (s : State) : s.seqResetDone.lock = s.lock := rfl

/-- R162: with the lock free, `SEQ` becomes `EXPECT_0`, whatever it was. -/
theorem exec_seqReset_of_lock_free {s : State} (h : s.lock = .free) : exec .seqReset s = .next s.seqResetDone :=
  if_pos h

/-- R164: while an exchange is in progress `SEQ_RESET` holds. -/
theorem exec_seqReset_of_lock_ne_free {s : State} (h : s.lock ≠ .free) : exec .seqReset s = .next s :=
  if_neg h

/-- Settles O12: the code by the row of the operation table, the two answers by the test of the lock. -/
theorem seqResetCompletes : Obligations.SeqResetCompletes := by
  unfold Obligations.SeqResetCompletes
  exact ⟨fun syncCmd _ => decode_of_op_seqReset syncCmd,
    fun _ => ⟨exec_seqReset_of_lock_free, exec_seqReset_of_lock_ne_free⟩⟩

/-- Settles O15: `SEQ_RESET` keeps the lock free, so `SEQ_NEXT` completes after it and finds `SEQ` at 0. -/
theorem resetThenNextYieldsZero : Obligations.ResetThenNextYieldsZero := by
  unfold Obligations.ResetThenNextYieldsZero
  intro s hfree
  have hfree' : s.seqResetDone.lock = .free := by rw [State.seqResetDone_lock, hfree]
  refine ⟨s.seqResetDone, s.seqResetDone.seqNextDone, exec_seqReset_of_lock_free hfree,
    exec_seqNext_of_lock_free hfree', ?bit, ?seq⟩
  case bit => rw [State.seqNextDone_bit, State.seqResetDone_seq]
  case seq =>
    rw [State.seqNextDone_seq, State.seqResetDone_seq]
    rfl

/-! ### Consecutive SEQ_NEXT operations -/

/-- Counting one further flips the parity bit. -/
theorem ofNat_one_succ (k : Nat) : BitVec.ofNat 1 (k + 1) = BitVec.ofNat 1 k ^^^ 1 := by
  rw [BitVec.ofNat_add, BitVec.add_eq_xor]
  rfl

/-- Each state of a run of `SEQ_NEXT` operations from a free lock is the one before it after a completed `SEQ_NEXT`, and
the lock stays free: the run is the iteration of `seqNextDone`. -/
theorem seqNext_run_eq_iterate {n : Nat} {run : Nat → State} (hfree : (run 0).lock = .free)
    (hrun : ∀ k < n, exec .seqNext (run k) = .next (run (k + 1))) {k : Nat} (hk : k ≤ n) :
    run k = State.seqNextDone^[k] (run 0) ∧ (run k).lock = .free := by
  induction k with
  | zero => exact ⟨rfl, hfree⟩
  | succ k ih =>
    obtain ⟨heq, hlock⟩ := ih (by omega)
    have hnext : run (k + 1) = (run k).seqNextDone := by
      have hstep := (hrun k hk).symm.trans (exec_seqNext_of_lock_free hlock)
      injection hstep
    exact ⟨by rw [hnext, heq, Function.iterate_succ_apply'], by rw [hnext, State.seqNextDone_lock, hlock]⟩

/-- R161: after `k` flips `SEQ` has changed by the parity of `k`. -/
theorem iterate_seqNextDone_seq (k : Nat) (s : State) :
    (State.seqNextDone^[k] s).seq = s.seq ^^^ BitVec.ofNat 1 k := by
  induction k with
  | zero => exact BitVec.xor_zero.symm
  | succ k ih => rw [Function.iterate_succ_apply', State.seqNextDone_seq, ih, ofNat_one_succ, BitVec.xor_assoc]

/-- Settles O14: the run iterates a flip, and each operation returns the bit the one before it left. -/
theorem seqNextAlternates : Obligations.SeqNextAlternates := by
  unfold Obligations.SeqNextAlternates
  intro n run hfree hrun
  have hiter {k : Nat} (hk : k ≤ n) : run k = State.seqNextDone^[k] (run 0) :=
    (seqNext_run_eq_iterate hfree hrun hk).1
  constructor
  · intro k hk
    rw [hiter hk, Function.iterate_succ_apply', State.seqNextDone_bit, iterate_seqNextDone_seq]
  · rw [hiter le_rfl, iterate_seqNextDone_seq]

end Sys2Proof.Machine
end

section
/-! Phase 2 of an exchange as a step, R181 to R188: the turn of the agent that awaits its reply is `sendFinish`, which
completes the operation on the state whose exchange is over. -/

namespace Sys2Proof.Machine

/-! ### The turn that is phase 2 -/

/-- R180: the host's turn while its own exchange awaits the reply is phase 2. -/
theorem step_of_host_awaits {s : State} (hturn : s.nextTurn = .host) (hlock : s.lock = .host)
    (hxph : s.xph = .awaitReply) : step s = .next (sendFinish .host s.turned).1 := by
  have hawaits : s.turned.hostAwaits = true := by simp [State.hostAwaits, hlock, hxph]
  rw [step_host s hturn, hostTurn, if_pos hawaits]

/-- R243: the poller's turn while its own exchange awaits the reply is tick-end. -/
theorem step_of_poller_awaits {s : State} (hturn : s.nextTurn = .poller) (hlock : s.lock = .poller)
    (hxph : s.xph = .awaitReply) : step s = .next (tickEnd s.turned) := by
  have hawaits : s.turned.pollerAwaits = true := by simp [State.pollerAwaits, hlock, hxph]
  rw [step_poller s hturn, pollerTurn, if_pos hawaits]

/-! ### What phase 2 answers, by the reply -/


/-- R187, R188: the read followed by the end of the exchange. -/
theorem endExchange_tRead (a : Agent) (s : State) : (s.tRead a).endExchange = s.exchangeOver a := rfl

theorem sendFinish_of_error {a : Agent} {s : State} {e : ErrKind}
    (h : replyOf s.par.status s.nextRead (receivedBytes s.nextRead) = .error e) :
    sendFinish a s = ((s.exchangeOver a).raise a e, .error e) := by
  rcases sendFinish_cases a s with ⟨e', he, hs⟩ | ⟨r, hr, _⟩
  · obtain rfl : e = e' := Except.error.inj (h.symm.trans he)
    rw [hs, endExchange_tRead]
  · exact absurd (h.symm.trans hr) nofun

theorem sendFinish_of_ok {a : Agent} {s : State} {r : Response}
    (h : replyOf s.par.status s.nextRead (receivedBytes s.nextRead) = .ok r) :
    sendFinish a s = ((s.exchangeOver a).complete a (responseResults r s.xBit), .ok r) := by
  rcases sendFinish_cases a s with ⟨e, he, _⟩ | ⟨r', hr, hs⟩
  · exact absurd (h.symm.trans he) nofun
  · obtain rfl : r = r' := Except.ok.inj (h.symm.trans hr)
    rw [hs, endExchange_tRead]

/-- R184: the results of a Response whose frame is the wire frame of `status :: data`. -/
theorem responseResults_eq_replyRecord (c : StatusCodes) (b : BitVec 1) (st sa status : Byte) (data : List Byte) :
    responseResults
      { frame :=
          { start := st, seqAddr := sa, length := BitVec.ofNat 8 (data.length + 1), payload := status :: data,
            checksum := crc16 (sa :: BitVec.ofNat 8 (data.length + 1) :: status :: data) },
        statusByte := status, status := statusOf c status, rawPayload := data } (some b) =
      replyRecord c b st sa status data := rfl

/-- Settles O21: the reply decodes to a Response, whose results are the record of the reply. -/
theorem replyCompletesHostSend : Obligations.ReplyCompletesHostSend := by
  unfold Obligations.ReplyCompletesHostSend
  intro st sa status data extra b s hturn hlock hxph hbit hlen hread
  have hreply := replyOf_good s.turned.par.status st sa status data extra hlen
  rw [← hread] at hreply
  rw [step_of_host_awaits hturn hlock hxph, sendFinish_of_ok hreply, turned_xBit, hbit,
    responseResults_eq_replyRecord]
  rfl

/-- Settles O22: the reply's error is raised on the state whose exchange is over. -/
theorem badReplyEndsHostSend : Obligations.BadReplyEndsHostSend := by
  unfold Obligations.BadReplyEndsHostSend
  intro s e code hturn hlock hxph hbad
  obtain ⟨hreply, rfl⟩ := replyOf_bad (c := s.turned.par.status) hbad
  rw [step_of_host_awaits hturn hlock hxph, sendFinish_of_error hreply, raise_host_eq_hostErr]

/-! ### Whatever the reply is -/

/-- R188: phase 2 completes the agent's operation with a value in `ERR`, on the state whose exchange is over. -/
theorem sendFinish_completes (a : Agent) (s : State) :
    ∃ r : Results, r.err ≠ none ∧ (sendFinish a s).1 = (s.exchangeOver a).complete a r := by
  cases hreply : replyOf s.par.status s.nextRead (receivedBytes s.nextRead) with
  | error e => exact ⟨Results.error e, nofun, by rw [sendFinish_of_error hreply, State.raise]⟩
  | ok r => exact ⟨responseResults r s.xBit, nofun, by rw [sendFinish_of_ok hreply]⟩

/-- Settles O24: either agent's turn is phase 2, followed for the poller by a publication that leaves the registers. -/
theorem exchangeEndReleasesLock : Obligations.ExchangeEndReleasesLock := by
  unfold Obligations.ExchangeEndReleasesLock
  intro s hxph
  constructor
  case left =>
    intro hlock hturn
    obtain ⟨r, herr, hdone⟩ := sendFinish_completes .host s.turned
    refine ⟨_, step_of_host_awaits hturn hlock hxph, ?_⟩
    rw [hdone, complete_host]
    exact ⟨rfl, rfl, herr, rfl⟩
  case right =>
    intro hlock hturn
    obtain ⟨r, herr, hdone⟩ := sendFinish_completes .poller s.turned
    refine ⟨_, step_of_poller_awaits hturn hlock hxph, ?_⟩
    rw [tickEnd, hdone, complete_poller]
    exact ⟨rfl, rfl, herr, rfl⟩

end Sys2Proof.Machine
end

section
/-! The sequence law of exchanges, R191: which steps change `SEQ`, what it is after a command, and hence how the bits of
consecutive commands compare. -/

namespace Sys2Proof.Machine

/-! ### Which steps start a command -/

/-- R172: a presented `SEND` starts its command when the lock is free and the transport is open. -/
theorem startsCommand_of_runs_send {s : State} {cmd : Byte} {data : List Byte} (hlock : s.lock = .free)
    (hconn : s.connected = true) (hruns : s.Runs (.send cmd data)) : s.startsCommand = some cmd := by
  obtain ⟨hturn, -, hpending, hdecode⟩ := hruns
  simp [State.startsCommand, hlock, hconn, hturn, hpending, hdecode]

/-- R172, R174: likewise a presented `SYNC`. -/
theorem startsCommand_of_runs_sync {s : State} {data : List Byte} (hlock : s.lock = .free)
    (hconn : s.connected = true) (hruns : s.Runs (.sync data)) : s.startsCommand = some s.par.syncCmd := by
  obtain ⟨hturn, -, hpending, hdecode⟩ := hruns
  simp [State.startsCommand, hlock, hconn, hturn, hpending, hdecode]

/-- R172, R244: a tick-begin starts the poll command when the transport is open. -/
theorem startsCommand_of_tickBegin {s : State} (hturn : s.nextTurn = .poller) (hrun : s.pollRun = .running)
    (hlock : s.lock = .free) (hconn : s.connected = true) : s.startsCommand = some s.par.pollCmd := by
  simp [State.startsCommand, hlock, hconn, hturn, hrun]

/-- The ways a step starts a command: the host's `SEND` or `SYNC`, or the poller's tick-begin. -/
theorem startsCommand_cases {s : State} {c : Byte} (h : s.startsCommand = some c) :
    s.lock = .free ∧ s.connected = true ∧
      ((∃ data, s.Runs (.send c data)) ∨ (∃ data, s.Runs (.sync data) ∧ c = s.par.syncCmd) ∨
        (s.nextTurn = .poller ∧ s.pollRun = .running ∧ c = s.par.pollCmd)) := by
  unfold State.startsCommand at h
  split at h
  case isFalse => cases h
  case isTrue hfree =>
    obtain ⟨hlock, hconn⟩ := hfree
    have hawaits : s.hostAwaits = false := by simp [State.hostAwaits, hlock]
    refine ⟨hlock, hconn, ?_⟩
    split at h
    case h_1 hturn =>
      split at h
      case isFalse => cases h
      case isTrue hpending =>
        split at h
        case h_1 cmd data hdecode =>
          obtain rfl : cmd = c := Option.some.inj h
          exact .inl ⟨data, hturn, hawaits, hpending, hdecode⟩
        case h_2 data hdecode =>
          exact .inr (.inl ⟨data, ⟨hturn, hawaits, hpending, hdecode⟩, (Option.some.inj h).symm⟩)
        case h_3 => cases h
    case h_2 hturn =>
      split at h
      case isFalse => cases h
      case isTrue hrun => exact .inr (.inr ⟨hturn, hrun, (Option.some.inj h).symm⟩)
    case h_3 => cases h

/-- The step of a presented operation is `exec` on the state whose turn is taken. -/
theorem step_of_runs {s : State} {i : Instr} (h : s.Runs i) : step s = exec i s.turned := by
  obtain ⟨hturn, hawaits, hpending, hdecode⟩ := h
  have hfetch : s.turned.fetch = .ok i := hdecode
  rw [step_host s hturn, hostTurn, if_neg (by simp [hawaits]), if_pos (by simp [hpending]), hfetch]

/-- R243: with `RUNNING` and the lock free, the poller's turn is tick-begin. -/
theorem step_of_tickEnabled {s : State} (hturn : s.nextTurn = .poller) (hrun : s.pollRun = .running)
    (hlock : s.lock = .free) : step s = .next (tickBegin s.turned) := by
  have hawaits : ¬ s.turned.pollerAwaits = true := by simp [State.pollerAwaits, hlock]
  have henabled : s.turned.tickEnabled = true := by simp [State.tickEnabled, hrun, hlock]
  rw [step_poller s hturn, pollerTurn, if_neg hawaits, if_pos henabled]

theorem exec_send_of_lock_free {s : State} (h : s.lock = .free) (cmd : Byte) (data : List Byte) :
    exec (.send cmd data) s = .next (sendStart .host cmd data s).1 := if_pos h

theorem exec_sync_of_lock_free {s : State} (h : s.lock = .free) (data : List Byte) :
    exec (.sync data) s = .next (sendStart .host s.par.syncCmd data s).1 := if_pos h

/-- R170: a step that starts a command is phase 1 of the host's exchange or the poller's tick-begin. -/
theorem step_of_startsCommand {s : State} {c : Byte} (h : s.startsCommand = some c) :
    s.connected = true ∧
      ((∃ data, step s = .next (sendStart .host c data s.turned).1) ∨
        (c = s.par.pollCmd ∧ step s = .next (tickBegin s.turned))) := by
  obtain ⟨hlock, hconn, ⟨data, hruns⟩ | ⟨data, hruns, rfl⟩ | ⟨hturn, hrun, hcmd⟩⟩ := startsCommand_cases h
  case inl =>
    exact ⟨hconn, .inl ⟨data, by rw [step_of_runs hruns, exec_send_of_lock_free (s := s.turned) hlock]⟩⟩
  case inr.inl =>
    exact ⟨hconn, .inl ⟨data, by rw [step_of_runs hruns, exec_sync_of_lock_free (s := s.turned) hlock, turned_par]⟩⟩
  case inr.inr => exact ⟨hconn, .inr ⟨hcmd, step_of_tickEnabled hturn hrun hlock⟩⟩

/-! ### What a step that starts a command leaves -/

@[simp] theorem turned_seqAfter (c : Byte) (s : State) : s.turned.seqAfter c = s.seqAfter c := rfl
@[simp] theorem setOpnd_poller_seqAfter (c : Byte) (r : OperandRegs) (s : State) :
    (s.setOpnd .poller r).seqAfter c = s.seqAfter c := rfl
@[simp] theorem setOpnd_poller_sentFrame (c : Byte) (data : List Byte) (r : OperandRegs) (s : State) :
    (s.setOpnd .poller r).sentFrame c data = s.sentFrame c data := rfl

/-- R178: phase 1 makes no transport call, or one `TWrite` of the command's frame. -/
theorem sendStart_calls (a : Agent) (cmd : Byte) (data : List Byte) (s : State) :
    (sendStart a cmd data s).1.calls = s.calls ∨
      ∃ ans, (sendStart a cmd data s).1.calls = s.calls ++ [.write a (s.sentFrame cmd data) ans] := by
  rcases sendStart_cases a cmd data s with ⟨_, hs⟩ | ⟨_, _, hs⟩ | ⟨_, _, _, hs⟩ | ⟨_, _, _, hs⟩ <;> rw [hs]
  case inl | inr.inl => left; simp [State.raise, State.complete, State.release]
  case inr.inr.inl | inr.inr.inr => right; simp [State.raise, State.complete, State.release, State.tWrite]

theorem tickBegin_seq (s : State) :
    (tickBegin s).seq = if s.connected then s.seqAfter s.par.pollCmd else s.seq := by
  simp [tickBegin, sendStart_seq]

theorem tickBegin_calls (s : State) :
    (tickBegin s).calls = s.calls ∨
      ∃ ans, (tickBegin s).calls = s.calls ++ [.write .poller (s.sentFrame s.par.pollCmd []) ans] := by
  simpa [tickBegin] using sendStart_calls .poller s.par.pollCmd [] (s.setOpnd .poller (pollOpnd s.par))

/-- R173: a step that starts a command makes the sequence step, however its phase 1 ends. -/
theorem step_seq_of_startsCommand {s t : State} {c : Byte} (hstart : s.startsCommand = some c)
    (hstep : step s = .next t) : t.seq = s.seqAfter c := by
  obtain ⟨hconn, ⟨data, hphase⟩ | ⟨rfl, hphase⟩⟩ := step_of_startsCommand hstart
  case inl =>
    obtain rfl := Host.Outcome.next.inj (hstep.symm.trans hphase)
    simp [sendStart_seq, hconn]
  case inr =>
    obtain rfl := Host.Outcome.next.inj (hstep.symm.trans hphase)
    simp [tickBegin_seq, hconn]

/-- R178: a step that starts a command makes no transport call, or one `TWrite` of the command's frame. -/
theorem step_calls_of_startsCommand {s t : State} {c : Byte} (hstart : s.startsCommand = some c)
    (hstep : step s = .next t) :
    t.calls = s.calls ∨ ∃ agent data ans, t.calls = s.calls ++ [.write agent (s.sentFrame c data) ans] := by
  obtain ⟨-, ⟨data, hphase⟩ | ⟨rfl, hphase⟩⟩ := step_of_startsCommand hstart
  case inl =>
    obtain rfl := Host.Outcome.next.inj (hstep.symm.trans hphase)
    exact (sendStart_calls .host c data s.turned).imp_right fun ⟨ans, h⟩ => ⟨.host, data, ans, h⟩
  case inr =>
    obtain rfl := Host.Outcome.next.inj (hstep.symm.trans hphase)
    exact (tickBegin_calls s.turned).imp_right fun ⟨ans, h⟩ => ⟨.poller, [], ans, h⟩

/-! ### What other steps leave -/

/-- An operation of the host leaves `SEQ`, unless the lock is free and it is `SEQ_NEXT`, `SEQ_RESET`, or a `SEND` with the
transport open (R160, R162, R172). -/
theorem ExecShape.seq_cases {i : Instr} {s t : State} (h : ExecShape i s t) :
    t.seq = s.seq ∨ (s.lock = .free ∧
      (i = .seqNext ∨ i = .seqReset ∨
        (s.connected = true ∧ ((∃ cmd data, i = .send cmd data) ∨ ∃ data, i = .sync data)))) := by
  cases h with
  | pure | holds | pollStart | pollStop => exact .inl rfl
  | seqNext hlock => exact .inr ⟨hlock, .inl rfl⟩
  | seqReset hlock => exact .inr ⟨hlock, .inr (.inl rfl)⟩
  | send cmd data hlock =>
    cases hconn : s.connected with
    | false => left; simp [sendStart_seq, hconn]
    | true => exact .inr ⟨hlock, .inr (.inr ⟨rfl, .inl ⟨cmd, data, rfl⟩⟩)⟩
  | sync data hlock =>
    cases hconn : s.connected with
    | false => left; simp [sendStart_seq, hconn]
    | true => exact .inr ⟨hlock, .inr (.inr ⟨rfl, .inr ⟨data, rfl⟩⟩)⟩

theorem ExecShape.keeps_par {i : Instr} {s t : State} (h : ExecShape i s t) : t.par = s.par := by
  cases h with
  | pure | holds | seqNext | seqReset | pollStart | pollStop => rfl
  | send | sync => simp [sendStart_keeps]

/-- No step writes the parameters (R7). -/
theorem step_keeps_par {s t : State} (h : step s = .next t) : t.par = s.par := by
  cases step_shape h with
  | hostIdle | pollerIdle | illegal | presents | connection => rfl
  | operation i _ hexec => exact hexec.keeps_par
  | reply => simp [sendFinish_keeps]
  | tickBegin => simp [Machine.tickBegin, sendStart_keeps]
  | tickEnd => simp [Machine.tickEnd, sendFinish_keeps]

/-- R23: a step that starts no command and is no `SEQ_NEXT` or `SEQ_RESET` leaves `SEQ`. -/
theorem step_seq_of_leavesSequence {s t : State} (hleaves : s.LeavesSequence) (h : step s = .next t) :
    t.seq = s.seq := by
  obtain ⟨hnone, hnotNext, hnotReset⟩ := hleaves
  cases step_shape h with
  | hostIdle | pollerIdle | illegal | presents | connection => rfl
  | reply => simp [sendFinish_keeps]
  | tickEnd => simp [Machine.tickEnd, sendFinish_keeps]
  | tickBegin hturn hrun hlock =>
    cases hconn : s.connected with
    | false => simp [tickBegin_seq, hconn]
    | true => simp [startsCommand_of_tickBegin hturn hrun hlock hconn] at hnone
  | operation i hruns hexec =>
    rcases hexec.seq_cases with hseq | ⟨hlock, rfl | rfl | ⟨hconn, ⟨cmd, data, rfl⟩ | ⟨data, rfl⟩⟩⟩
    · exact hseq
    · exact absurd hruns hnotNext
    · exact absurd hruns hnotReset
    · simp [startsCommand_of_runs_send (s := s) hlock hconn hruns] at hnone
    · simp [startsCommand_of_runs_sync (s := s) hlock hconn hruns] at hnone

/-- A run of such steps leaves `SEQ` and the parameters. -/
theorem runWhile_leavesSequence_keeps {s m : State} (h : RunWhile State.LeavesSequence s m) :
    m.seq = s.seq ∧ m.par = s.par := by
  induction h with
  | here => exact ⟨rfl, rfl⟩
  | more hleaves hstep _ ih =>
    obtain ⟨hseq, hpar⟩ := ih
    exact ⟨by rw [hseq, step_seq_of_leavesSequence hleaves hstep], by rw [hpar, step_keeps_par hstep]⟩

/-! ### The bits -/

theorem seqAfter_of_eq_syncCmd {s : State} {c : Byte} (h : c = s.par.syncCmd) : s.seqAfter c = 0 := by
  rw [State.seqAfter, seqForCommand, if_pos h, seqResetStep]

theorem seqAfter_of_ne_syncCmd {s : State} {c : Byte} (h : c ≠ s.par.syncCmd) : s.seqAfter c = s.seq ^^^ 1 := by
  rw [State.seqAfter, seqForCommand, if_neg h, seqNextStep]

theorem bitFor_of_eq_syncCmd {s : State} {c : Byte} (h : c = s.par.syncCmd) : s.bitFor c = 0 := if_pos h

theorem bitFor_of_ne_syncCmd {s : State} {c : Byte} (h : c ≠ s.par.syncCmd) : s.bitFor c = s.seq := if_neg h

/-- With `SEQ` at `EXPECT_0` every command carries 0 (R174, R175). -/
theorem bitFor_of_seq_eq_zero {s : State} (h : s.seq = 0) (c : Byte) : s.bitFor c = 0 := by
  rw [State.bitFor, h, ite_self]

theorem sentBit_eq_bitFor (c : Byte) (s : State) : s.sentBit c = s.bitFor c := by
  unfold State.sentBit State.bitFor seqForCommand
  split <;> rfl

theorem xor_one_ne_self (b : BitVec 1) : b ^^^ 1 ≠ b := by
  revert b
  decide

/-- Settles O25: between the two commands `SEQ` stays as the first one's sequence step left it, and the second one
carries it unless it is the synchronization command. -/
theorem bitsAlternateAcrossCommands : Obligations.BitsAlternateAcrossCommands := by
  unfold Obligations.BitsAlternateAcrossCommands
  refine ⟨?consecutive, ?first, ?wire⟩
  case consecutive =>
    intro s t m c d hstart hstep hrun _
    obtain ⟨hseq, hpar⟩ := runWhile_leavesSequence_keeps hrun
    rw [step_seq_of_startsCommand hstart hstep] at hseq
    refine ⟨bitFor_of_eq_syncCmd, ?firstIsSync, ?bothOrdinary⟩
    case firstIsSync =>
      intro hc
      exact bitFor_of_seq_eq_zero (hseq.trans (seqAfter_of_eq_syncCmd hc)) d
    case bothOrdinary =>
      intro hc hd
      rw [bitFor_of_ne_syncCmd hd, bitFor_of_ne_syncCmd hc, hseq, seqAfter_of_ne_syncCmd hc]
      exact xor_one_ne_self s.seq
  case first =>
    intro s m d hreset hrun _
    obtain ⟨hseq, -⟩ := runWhile_leavesSequence_keeps hrun
    exact bitFor_of_seq_eq_zero (hseq.trans hreset) d
  case wire =>
    intro s t c hstart hstep
    have hcalls := step_calls_of_startsCommand hstart hstep
    simpa only [sentFrame_eq_commandWire, sentBit_eq_bitFor] using hcalls

end Sys2Proof.Machine
end

section
/-! The Response Decoder, R200 to R224: `DEC_IDENT`, `DEC_CHAN` and `DEC_SETUP` as operations of the host port. First
where a field of a byte string stands and how its bytes make a word; then one lemma per branch of each decoder; then the
operations. -/

namespace Sys2Proof.Machine

/-! ### Reading a field that follows a known front -/

/-- `j` bytes past the front is `j` bytes into what follows it. -/
theorem byteAt_append_of_eq_add {front rest : List Byte} {o j : Nat} (ho : o = front.length + j) :
    byteAt (front ++ rest) o = byteAt rest j := by
  rw [byteAt_append_right _ _ _ (by omega), ho, Nat.add_sub_cancel_left]

theorem memRead_append_of_eq_add {front rest : List Byte} {o j : Nat} (ho : o = front.length + j) (n : Nat) :
    memRead (front ++ rest) o n = memRead rest j n := by
  induction n generalizing o j with
  | zero => rfl
  | succ n ih => rw [memRead, memRead, byteAt_append_of_eq_add ho, ih (j := j + 1) (by omega)]

theorem byteAt_eq_getElem {b : List Byte} {i : Nat} (h : i < b.length) : byteAt b i = b[i] :=
  List.getD_eq_getElem b 0 h

/-- Byte `j` of a vector laid out after the front. -/
theorem byteAt_append_toList {m : Nat} {front : List Byte} (v : Vector Byte m) (rest : List Byte) {o j : Nat}
    (hj : j < m) (ho : o = front.length + j) : byteAt (front ++ (v.toList ++ rest)) o = v[j] := by
  have hlen : j < v.toList.length := by rwa [Vector.length_toList]
  rw [byteAt_append_of_eq_add ho, byteAt_append_left _ _ _ hlen, byteAt_eq_getElem hlen, Vector.getElem_toList]

theorem chars3_append_toList {front : List Byte} (v : Vector Byte 3) (rest : List Byte) {o : Nat}
    (ho : o = front.length) : chars3 (front ++ (v.toList ++ rest)) o = v := by
  have byte {j : Nat} (hj : j < 3) : byteAt (front ++ (v.toList ++ rest)) (o + j) = v[j] :=
    byteAt_append_toList v rest hj (by rw [ho])
  ext j hj : 1
  match j with
  | 0 => exact byte (j := 0) hj
  | 1 => exact byte hj
  | 2 => exact byte hj

/-! ### Little-endian words -/

/-- A byte below a number, as a word: the byte takes the low 8 bits (R52). -/
theorem ofNat_byte_add (w m : Nat) (b : Byte) :
    BitVec.ofNat (w + 8) (b.toNat + 256 * m) = BitVec.ofNat w m ++ b := by
  have hb : b.toNat < 256 := b.isLt
  have hlow : (b.toNat + 256 * m) % 256 = b.toNat := by omega
  have hhigh : (b.toNat + 256 * m) / 256 = m := by omega
  apply BitVec.eq_of_toNat_eq
  calc (BitVec.ofNat (w + 8) (b.toNat + 256 * m)).toNat
      = (b.toNat + 256 * m) % (256 * 2 ^ w) := by rw [BitVec.toNat_ofNat, Nat.pow_add, Nat.mul_comm (2 ^ w)]
    _ = 256 * (m % 2 ^ w) + b.toNat := by rw [Nat.mod_mul, hlow, hhigh, Nat.add_comm]
    _ = (BitVec.ofNat w m ++ b).toNat := by
      rw [BitVec.toNat_append, ← Nat.shiftLeft_add_eq_or_of_lt hb, BitVec.toNat_ofNat, Nat.shiftLeft_eq, Nat.mul_comm]

theorem ofNat_memRead_one (p : List Byte) (o : Nat) : BitVec.ofNat 8 (memRead p o 1) = byteAt p o := by
  simp [memRead]

theorem ofNat_memRead_succ (w : Nat) (p : List Byte) (o n : Nat) :
    BitVec.ofNat (w + 8) (memRead p o (n + 1)) = BitVec.ofNat w (memRead p (o + 1) n) ++ byteAt p o := by
  rw [memRead, ofNat_byte_add]

/-- Three bytes read little-endian, as a word (R52). -/
theorem ofNat_memRead_three (p : List Byte) (o : Nat) :
    BitVec.ofNat 24 (memRead p o 3) = byteAt p (o + 2) ++ byteAt p (o + 1) ++ byteAt p o := by
  rw [ofNat_memRead_succ 16, ofNat_memRead_succ 8, ofNat_memRead_one]

/-- Four bytes read little-endian, as a word (R52). -/
theorem ofNat_memRead_four (p : List Byte) (o : Nat) :
    BitVec.ofNat 32 (memRead p o 4) =
      byteAt p (o + 3) ++ byteAt p (o + 2) ++ byteAt p (o + 1) ++ byteAt p o := by
  rw [ofNat_memRead_succ 24, ofNat_memRead_three]

/-- Four bytes after the front, read little-endian. -/
theorem ofNat_memRead_append_toList {front : List Byte} (v : Vector Byte 4) (rest : List Byte) {o : Nat}
    (ho : o = front.length) :
    BitVec.ofNat 32 (memRead (front ++ (v.toList ++ rest)) o 4) = v[3] ++ v[2] ++ v[1] ++ v[0] := by
  have byte {j : Nat} (hj : j < 4) : byteAt (front ++ (v.toList ++ rest)) (o + j) = v[j] :=
    byteAt_append_toList v rest hj (by rw [ho])
  have first : byteAt (front ++ (v.toList ++ rest)) o = v[0] := byte (j := 0) (by decide)
  rw [ofNat_memRead_four, byte, byte, byte, first]

/-! ### Blocks of equal length -/

section
variable {α : Type} {f : α → List Byte} {k : Nat}

theorem length_flatMap_blocks (hf : ∀ x, (f x).length = k) (xs : List α) :
    (xs.flatMap f).length = k * xs.length := by
  induction xs with
  | nil => rfl
  | cons x xs ih => rw [List.flatMap_cons, List.length_append, hf, ih, List.length_cons, Nat.mul_succ, Nat.add_comm]

/-- In a concatenation of blocks of `k` bytes, block `i` stands after `k * i` bytes. -/
theorem exists_flatMap_eq_append_block (hf : ∀ x, (f x).length = k) {xs : List α} {i : Nat} (hi : i < xs.length) :
    ∃ front back, front.length = k * i ∧ xs.flatMap f = front ++ (f xs[i] ++ back) := by
  induction xs generalizing i with
  | nil => cases hi
  | cons x xs ih =>
    cases i with
    | zero => exact ⟨[], xs.flatMap f, rfl, rfl⟩
    | succ i =>
      obtain ⟨front, back, hlen, hblock⟩ := ih (Nat.lt_of_succ_lt_succ hi)
      refine ⟨f x ++ front, back, ?length, ?split⟩
      case length => rw [List.length_append, hf, hlen, Nat.mul_succ, Nat.add_comm]
      case split => rw [List.flatMap_cons, hblock, List.append_assoc, List.getElem_cons_succ]

end

/-! ### What an operation of the decoder completes with -/

theorem completeWith_ok (r : Results) (s : State) : s.completeWith (.ok r) = s.hostDone r := rfl

theorem completeWith_error (e : ErrKind) (s : State) : s.completeWith (.error e) = s.hostErr e.code := rfl

/-- R201, R211, R221: a payload too short for its shape. -/
theorem completeWith_of_malformed {r : Except ErrKind Results} (h : r = .error .malformedResponse) (s : State) :
    s.completeWith r = s.hostErr 0x7 := by
  rw [h, completeWith_error, ErrKind.code]

theorem exec_decIdent (p : List Byte) (s : State) :
    exec (.decIdent p) s = .next (s.completeWith (decodeIdent s.par.units p)) := rfl

theorem exec_decChan (ver : Byte) (p : List Byte) (s : State) :
    exec (.decChan ver p) s = .next (s.completeWith (decodeChannels s.par.layout ver p)) := rfl

theorem exec_decSetup (p : List Byte) (s : State) :
    exec (.decSetup p) s = .next (s.completeWith (decodeSetup s.par.units p)) := rfl

/-- Only a record leaves `ERR = 0`: no error has the code 0 (R102, R270). -/
theorem completeWith_of_err_eq_zero {r : Except ErrKind Results} {s : State}
    (h : (s.completeWith r).host.res.err = some 0) :
    ∃ res, r = .ok res ∧ (s.completeWith r).host.res = res := by
  cases r with
  | ok res => exact ⟨res, rfl, rfl⟩
  | error e => cases e <;> cases h

/-! ### The branches of the decoders -/

section
variable (u : UnitCodes) (layout : ChannelLayout) {ver n : Byte} {p front rest : List Byte}

theorem decodeIdent_of_length_lt (h : p.length < 12) : decodeIdent u p = .error .malformedResponse := if_pos h

theorem decodeIdent_of_length_ge (h : 12 ≤ p.length) :
    decodeIdent u p = .ok { identityFields u p with uPver := some (byteAt p 11) } := if_neg (Nat.not_lt.mpr h)

theorem decodeChannels_nil (ver : Byte) : decodeChannels layout ver [] = .error .malformedResponse := rfl

/-- R211, R213: below version 6 the count byte asks for one byte per channel. -/
theorem decodeChannels_legacy (hver : ver.toNat < 6) :
    decodeChannels layout ver (n :: rest) =
      if rest.length < n.toNat then .error .malformedResponse else .ok (legacyChannels (n :: rest) n.toNat) := by
  rw [decodeChannels, if_neg (by simp)]
  simp [Config.extVer, hver, Nat.add_comm 1]

/-- R211, R214: from version 6 on it asks for 8 bytes per channel. -/
theorem decodeChannels_extended (hver : 6 ≤ ver.toNat) :
    decodeChannels layout ver (n :: rest) =
      if rest.length < 8 * n.toNat then .error .malformedResponse
      else .ok (extendedChannels layout (n :: rest) n.toNat) := by
  rw [decodeChannels, if_neg (by simp)]
  simp [Config.extVer, Nat.not_lt.mpr hver, Nat.add_comm 1]

theorem decodeSetup_of_length_lt (h : p.length < 12) : decodeSetup u p = .error .malformedResponse := if_pos h

/-- The record of `DEC_SETUP` for the count `n` (R222). -/
def setupRecord (u : UnitCodes) (p : List Byte) (n : Byte) : Results :=
  { identityFields u p with
    tN := some n, tVb := slice p 12 n.toNat, tSec := slice p (12 + n.toNat) n.toNat,
    sRmult := some (BitVec.ofNat 24 (memRead p (12 + 2 * n.toNat) 3)), uPver := some (byteAt p (15 + 2 * n.toNat)) }

/-- R221, R222: the count byte at offset 11 asks for two bytes per channel and four more. -/
theorem decodeSetup_counted (hfront : front.length = 11) :
    decodeSetup u (front ++ n :: rest) =
      if rest.length < 4 + 2 * n.toNat then .error .malformedResponse
      else .ok (setupRecord u (front ++ n :: rest) n) := by
  have hlen : (front ++ n :: rest).length = 12 + rest.length := by
    rw [List.length_append, List.length_cons, hfront]
    omega
  have hcount : byteAt (front ++ n :: rest) 11 = n := byteAt_append_length _ _ _ _ hfront.symm
  have htest : 12 + rest.length < 16 + 2 * n.toNat ↔ rest.length < 4 + 2 * n.toNat := by omega
  rw [decodeSetup, if_neg (by omega)]
  simp only [hlen, hcount, htest]
  rfl

end

/-- Settles O27: each decoder's length tests, in their order. -/
theorem shortPayloadsAreMalformed : Obligations.ShortPayloadsAreMalformed := by
  unfold Obligations.ShortPayloadsAreMalformed
  refine ⟨?ident, ?chanEmpty, ?chanLegacy, ?chanExtended, ?setupShort, ?setupCounted⟩
  case ident =>
    intro p s h
    rw [exec_decIdent, completeWith_of_malformed (decodeIdent_of_length_lt _ h)]
  case chanEmpty =>
    intro ver s
    rw [exec_decChan, completeWith_of_malformed (decodeChannels_nil _ ver)]
  case chanLegacy =>
    intro ver n rest s hver h
    rw [exec_decChan, decodeChannels_legacy _ hver, completeWith_of_malformed (if_pos h)]
  case chanExtended =>
    intro ver n rest s hver h
    rw [exec_decChan, decodeChannels_extended _ hver, completeWith_of_malformed (if_pos h)]
  case setupShort =>
    intro p s h
    rw [exec_decSetup, completeWith_of_malformed (decodeSetup_of_length_lt _ h)]
  case setupCounted =>
    intro front rest n s hfront h
    rw [exec_decSetup, decodeSetup_counted _ hfront, completeWith_of_malformed (if_pos h)]

/-! ### The identity layout -/

/-- R204: the digits' sum fits the 15 bits of `U_MULT`. -/
theorem digitValue_le (p : List Byte) (o : Nat) : digitValue p o ≤ 28305 := by
  have h0 := (byteAt p o).isLt
  have h1 := (byteAt p (o + 1)).isLt
  have h2 := (byteAt p (o + 2)).isLt
  unfold digitValue
  omega

theorem digitValue_append {front : List Byte} {o : Nat} (ho : o = front.length) (d0 d1 d2 : Byte)
    (rest : List Byte) :
    digitValue (front ++ d0 :: d1 :: d2 :: rest) o = d2.toNat * 100 + d1.toNat * 10 + d0.toNat := by
  have byte (j : Nat) : byteAt (front ++ d0 :: d1 :: d2 :: rest) (o + j) = byteAt (d0 :: d1 :: d2 :: rest) j :=
    byteAt_append_of_eq_add (by rw [ho])
  have first : byteAt (front ++ d0 :: d1 :: d2 :: rest) o = d0 := byte 0
  rw [digitValue, byte 2, byte 1, first]
  rfl

theorem decodeIdent_ok_uMult {u : UnitCodes} {p : List Byte} {r : Results} (h : decodeIdent u p = .ok r) :
    r.uMult = some (BitVec.ofNat 15 (digitValue p 8)) := by
  unfold decodeIdent at h
  split at h
  case isTrue => cases h
  case isFalse => cases h; rfl

theorem decodeSetup_ok_uMult {u : UnitCodes} {p : List Byte} {r : Results} (h : decodeSetup u p = .ok r) :
    r.uMult = some (BitVec.ofNat 15 (digitValue p 8)) := by
  unfold decodeSetup at h
  split at h
  case isTrue => cases h
  case isFalse =>
    dsimp only at h
    split at h
    case isTrue => cases h
    case isFalse => cases h; rfl

/-- Settles O28: both records take `U_MULT` from the same digits, whose sum fits the register. -/
theorem digitMultiplierIsExact : Obligations.DigitMultiplierIsExact := by
  unfold Obligations.DigitMultiplierIsExact
  intro front rest d0 d1 d2 i s t hfront hi hexec herr
  have hsum := digitValue_append hfront.symm d0 d1 d2 rest
  have hle := digitValue_le (front ++ d0 :: d1 :: d2 :: rest) 8
  have hmult : t.host.res.uMult = some (BitVec.ofNat 15 (digitValue (front ++ d0 :: d1 :: d2 :: rest) 8)) := by
    rcases hi with rfl | rfl
    case inl =>
      obtain rfl := Host.Outcome.next.inj ((exec_decIdent _ s).symm.trans hexec)
      obtain ⟨res, hok, hres⟩ := completeWith_of_err_eq_zero herr
      rw [hres, decodeIdent_ok_uMult hok]
    case inr =>
      obtain rfl := Host.Outcome.next.inj ((exec_decSetup _ s).symm.trans hexec)
      obtain ⟨res, hok, hres⟩ := completeWith_of_err_eq_zero herr
      rw [hres, decodeSetup_ok_uMult hok]
  have hexact : (BitVec.ofNat 15 (digitValue (front ++ d0 :: d1 :: d2 :: rest) 8)).toNat =
      digitValue (front ++ d0 :: d1 :: d2 :: rest) 8 := by
    rw [BitVec.toNat_ofNat, Nat.mod_eq_of_lt (by omega)]
  exact ⟨_, hmult, by omega, by omega⟩

/-- R95: the fields of the identity layout at its eleven bytes. -/
theorem identityFields_bytes (u : UnitCodes) (t f0 f1 f2 f3 c0 c1 c2 d0 d1 d2 : Byte) (rest : List Byte) :
    identityFields u (t :: f0 :: f1 :: f2 :: f3 :: c0 :: c1 :: c2 :: d0 :: d1 :: d2 :: rest) =
      { Results.blank with
        err := some 0, uCode := some t, uType := some (unitTypeOf u t).code, uFw := some #v[f0, f1, f2, f3],
        uCc := some #v[c0, c1, c2],
        uMult := some (BitVec.ofNat 15 (d2.toNat * 100 + d1.toNat * 10 + d0.toNat * 1)) } := by
  rw [Nat.mul_one]
  rfl

/-- Settles O26: the record of the twelve bytes. -/
theorem decIdentCompletes : Obligations.DecIdentCompletes := by
  unfold Obligations.DecIdentCompletes
  intro t f0 f1 f2 f3 c0 c1 c2 d0 d1 d2 v extra s
  rw [exec_decIdent, decodeIdent_of_length_ge _ (by simp), completeWith_ok]
  simp only [List.cons_append, identityFields_bytes, byteAt_succ, byteAt_zero]

/-! ### DEC_CHAN below version 6 -/

/-- R213: the value bytes follow the count. -/
theorem legacyChannels_eq {n : Byte} {values : List Byte} (hn : values.length = n.toNat) (extra : List Byte) :
    legacyChannels (n :: values ++ extra) n.toNat =
      { Results.blank with err := some 0, tN := some n, tVb := values, tVal := values.map (·.setWidth 32) } := by
  have hvalues : slice (n :: values ++ extra) 1 n.toNat = values := slice_append [n] values extra 1 _ rfl hn.symm
  rw [legacyChannels, hvalues]
  rfl

/-- Settles O29: the count asks for no more than the value bytes. -/
theorem decChanLegacyCompletes : Obligations.DecChanLegacyCompletes := by
  unfold Obligations.DecChanLegacyCompletes
  intro ver n values extra s hver hn
  have hlen : ¬ (values ++ extra).length < n.toNat := by
    rw [List.length_append]
    omega
  rw [exec_decChan, List.cons_append, decodeChannels_legacy _ hver, if_neg hlen, completeWith_ok, ← List.cons_append,
    legacyChannels_eq hn]

/-! ### DEC_CHAN from version 6 on -/

/-- The channels `cs` stand in `p` under the layout: the fields of each one, at its offsets (R97). -/
structure ChannelsAt (layout : ChannelLayout) (p : List Byte) (cs : List ChannelRecord) : Prop where
  valueByte : ∀ (i : Nat) (hi : i < cs.length), channelValueByte layout p cs.length i = cs[i].valueByte
  country : ∀ (i : Nat) (hi : i < cs.length), channelCountry layout p cs.length i = cs[i].country
  full : ∀ (i : Nat) (hi : i < cs.length), channelFull layout p cs.length i = cs[i].fullValue

theorem map_range_eq_map {α β : Type} {f : Nat → β} {g : α → β} {xs : List α}
    (h : ∀ (i : Nat) (hi : i < xs.length), f i = g xs[i]) : (List.range xs.length).map f = xs.map g := by
  apply List.ext_getElem
  · simp
  · intro i _ hi
    simp [h i (by simpa using hi)]

/-- R214, R215: the results depend on the layout only through where the channels stand. -/
theorem extendedChannels_eq_of_channelsAt {layout : ChannelLayout} {n : Byte} {rest : List Byte}
    {cs : List ChannelRecord} (hn : cs.length = n.toNat) (h : ChannelsAt layout (n :: rest) cs) :
    extendedChannels layout (n :: rest) n.toNat = channelRecordResults n cs := by
  rw [← hn, extendedChannels, channelRecordResults, map_range_eq_map h.valueByte, map_range_eq_map h.country,
    map_range_eq_map h.full,
    map_range_eq_map (g := fun c : ChannelRecord => if c.valueByte = 0 then 1 else 0)
      fun i hi => by rw [h.valueByte i hi, extendedFlag],
    map_range_eq_map (g := fun c : ChannelRecord => if c.valueByte = 0 then c.fullValue else c.valueByte.setWidth 32)
      fun i hi => by rw [h.valueByte i hi, h.full i hi, effectiveValue]]
  rfl

/-- R211, R214: `DEC_CHAN` completes when the channels stand in the payload and their bytes are there. -/
theorem exec_decChan_of_channelsAt {ver n : Byte} {rest : List Byte} {cs : List ChannelRecord} {s : State}
    (hver : 6 ≤ ver.toNat) (hn : cs.length = n.toNat) (hlen : 8 * cs.length ≤ rest.length)
    (h : ChannelsAt s.par.layout (n :: rest) cs) :
    exec (.decChan ver (n :: rest)) s = .next (s.hostDone (channelRecordResults n cs)) := by
  rw [exec_decChan, decodeChannels_extended _ hver, if_neg (by omega), completeWith_ok,
    extendedChannels_eq_of_channelsAt hn h]

/-! ### The two layouts -/

theorem ChannelRecord.length_bytes (c : ChannelRecord) : c.bytes.length = 8 := by
  simp [ChannelRecord.bytes]

/-- R97: with `INTERLEAVED`, record `i` stands after the count and `8 * i` bytes. -/
theorem channelsAt_interleaved (n : Byte) (cs : List ChannelRecord) (extra : List Byte) :
    ChannelsAt .interleaved (n :: (cs.flatMap ChannelRecord.bytes ++ extra)) cs := by
  have record (i : Nat) (hi : i < cs.length) : ∃ front back, front.length = 1 + 8 * i ∧
      n :: (cs.flatMap ChannelRecord.bytes ++ extra) =
        front ++ cs[i].valueByte :: (cs[i].country.toList ++ (cs[i].full.toList ++ back)) := by
    obtain ⟨front, back, hlen, hblock⟩ := exists_flatMap_eq_append_block ChannelRecord.length_bytes hi
    refine ⟨n :: front, back ++ extra, by rw [List.length_cons, hlen, Nat.add_comm], ?_⟩
    simp [hblock, ChannelRecord.bytes]
  constructor
  case valueByte =>
    intro i hi
    obtain ⟨front, back, hlen, hp⟩ := record i hi
    rw [hp]
    exact byteAt_append_length _ _ _ _ hlen.symm
  case country =>
    intro i hi
    obtain ⟨front, back, hlen, hp⟩ := record i hi
    rw [hp, List.append_cons]
    refine chars3_append_toList _ _ ?_
    simp only [channelOffsets, List.length_append, List.length_cons, List.length_nil, hlen]
    omega
  case full =>
    intro i hi
    obtain ⟨front, back, hlen, hp⟩ := record i hi
    rw [hp, List.append_cons, ← List.append_assoc]
    refine ofNat_memRead_append_toList _ _ ?_
    simp only [channelOffsets, List.length_append, List.length_cons, List.length_nil, Vector.length_toList, hlen]
    omega

/-- R97: with `ARRAYS`, the value bytes, the countries and the full values stand one array after the other. -/
theorem channelsAt_arrays {p : List Byte} {n : Byte} {cs : List ChannelRecord} {extra : List Byte}
    (hp : p = n :: (cs.map (·.valueByte) ++ cs.flatMap (·.country.toList) ++ cs.flatMap (·.full.toList) ++ extra)) :
    ChannelsAt .arrays p cs := by
  have hcountry (c : ChannelRecord) : c.country.toList.length = 3 := c.country.length_toList
  have hfull (c : ChannelRecord) : c.full.toList.length = 4 := c.full.length_toList
  constructor
  case valueByte =>
    intro i hi
    have hmap : i < (cs.map (·.valueByte)).length := by rwa [List.length_map]
    rw [hp, channelValueByte, channelOffsets, Nat.add_comm 1 i, byteAt_succ]
    simp only [List.append_assoc]
    rw [byteAt_append_left _ _ _ hmap, byteAt_eq_getElem hmap, List.getElem_map]
  case country =>
    intro i hi
    obtain ⟨front, back, hlen, hblock⟩ := exists_flatMap_eq_append_block hcountry hi
    have hsplit : p = (n :: (cs.map (·.valueByte) ++ front)) ++
        (cs[i].country.toList ++ (back ++ (cs.flatMap (·.full.toList) ++ extra))) := by
      simp [hp, hblock]
    rw [hsplit]
    refine chars3_append_toList _ _ ?_
    simp only [channelOffsets, List.length_cons, List.length_append, List.length_map, hlen]
    omega
  case full =>
    intro i hi
    obtain ⟨front, back, hlen, hblock⟩ := exists_flatMap_eq_append_block hfull hi
    have hsplit : p = (n :: (cs.map (·.valueByte) ++ (cs.flatMap (·.country.toList) ++ front))) ++
        (cs[i].full.toList ++ (back ++ extra)) := by
      simp [hp, hblock]
    rw [hsplit]
    refine ofNat_memRead_append_toList _ _ ?_
    simp only [channelOffsets, List.length_cons, List.length_append, List.length_map, hlen,
      length_flatMap_blocks hcountry]
    omega

/-- Settles O30: in either layout the channels stand where the decoder reads them, in 8 bytes each. -/
theorem decChanExtendedCompletes : Obligations.DecChanExtendedCompletes := by
  unfold Obligations.DecChanExtendedCompletes
  intro ver n cs extra s hver hn
  constructor
  case left =>
    intro hlayout
    have hlen : 8 * cs.length ≤ (cs.flatMap ChannelRecord.bytes ++ extra).length := by
      rw [List.length_append, length_flatMap_blocks ChannelRecord.length_bytes]
      omega
    rw [List.cons_append]
    exact exec_decChan_of_channelsAt hver hn hlen (hlayout ▸ channelsAt_interleaved n cs extra)
  case right =>
    intro hlayout
    have hcountries := length_flatMap_blocks (fun c : ChannelRecord => c.country.length_toList) cs
    have hfulls := length_flatMap_blocks (fun c : ChannelRecord => c.full.length_toList) cs
    refine exec_decChan_of_channelsAt hver hn ?_ (hlayout ▸ channelsAt_arrays rfl)
    simp only [List.length_append, List.length_map, hcountries, hfulls]
    omega

/-! ### DEC_SETUP -/

/-- R222, R223: the fields after the count, whose offsets follow from it. -/
theorem setupRecord_eq {p front values flags extra : List Byte} {n r0 r1 r2 v : Byte}
    (hp : p = front ++ n :: (values ++ (flags ++ r0 :: r1 :: r2 :: v :: extra))) (hfront : front.length = 11)
    (hvalues : values.length = n.toNat) (hflags : flags.length = n.toNat) (u : UnitCodes) :
    setupRecord u p n =
      { identityFields u p with
        tN := some n, tVb := values, tSec := flags, sRmult := some (r2 ++ r1 ++ r0), uPver := some v } := by
  have hvb : slice p 12 n.toNat = values := by
    rw [hp, List.append_cons]
    exact slice_append _ _ _ _ _ (by simp [hfront]) hvalues.symm
  have hsec : slice p (12 + n.toNat) n.toNat = flags := by
    rw [hp, List.append_cons, ← List.append_assoc]
    exact slice_append _ _ _ _ _ (by simp only [List.length_append, List.length_singleton, hfront, hvalues]) hflags.symm
  have htail : p = (front ++ n :: (values ++ flags)) ++ r0 :: r1 :: r2 :: v :: extra := by simp [hp]
  have hhead : (front ++ n :: (values ++ flags)).length = 12 + 2 * n.toNat := by
    simp only [List.length_append, List.length_cons]
    omega
  have hrmult : BitVec.ofNat 24 (memRead p (12 + 2 * n.toNat) 3) = r2 ++ r1 ++ r0 := by
    rw [htail, memRead_append_of_eq_add (j := 0) hhead.symm, ofNat_memRead_three]
    rfl
  have hpver : byteAt p (15 + 2 * n.toNat) = v := by
    rw [htail, byteAt_append_of_eq_add (j := 3) (by omega)]
    rfl
  rw [setupRecord, hvb, hsec, hrmult, hpver]

/-- Settles O31: the count asks for no more than the arrays and the four bytes after them. -/
theorem decSetupCompletes : Obligations.DecSetupCompletes := by
  unfold Obligations.DecSetupCompletes
  intro t f0 f1 f2 f3 c0 c1 c2 d0 d1 d2 n r0 r1 r2 v values flags extra s hvalues hflags
  have hp : [t, f0, f1, f2, f3, c0, c1, c2, d0, d1, d2, n] ++ values ++ flags ++ [r0, r1, r2, v] ++ extra =
      [t, f0, f1, f2, f3, c0, c1, c2, d0, d1, d2] ++
        n :: (values ++ (flags ++ r0 :: r1 :: r2 :: v :: extra)) := by simp
  have hlen : ¬ (values ++ (flags ++ r0 :: r1 :: r2 :: v :: extra)).length < 4 + 2 * n.toNat := by
    simp only [List.length_append, List.length_cons]
    omega
  rw [exec_decSetup, hp, decodeSetup_counted _ rfl, if_neg hlen, completeWith_ok,
    setupRecord_eq rfl rfl hvalues hflags]
  simp only [List.cons_append, identityFields_bytes, List.nil_append]

end Sys2Proof.Machine
end

section
/-! The Event Poller, R240 to R248: the operations `POLL_START` and `POLL_STOP`, and tick-end as phase 2 of the poller's
exchange followed by the publication of its outcome. -/

namespace Sys2Proof.Machine

/-! ### POLL_START and POLL_STOP -/

/-- R240, R242: `POLL_START` completes on the host port, whatever the state. -/
theorem exec_pollStart (s : State) :
    exec .pollStart s = .next { s.hostDone { Results.blank with err := some 0 } with pollRun := .running } := rfl

/-- R241, R249: `POLL_STOP` completes on the host port, whatever the state. -/
theorem exec_pollStop (s : State) :
    exec .pollStop s = .next { s.hostDone { Results.blank with err := some 0 } with pollRun := .stopped } := rfl

/-- Settles O33: the codes by their rows of the operation table, the completions by what the operations answer. -/
theorem pollOperationsComplete : Obligations.PollOperationsComplete := by
  unfold Obligations.PollOperationsComplete
  exact ⟨fun syncCmd _ => ⟨decode_of_op_pollStart syncCmd, decode_of_op_pollStop syncCmd⟩,
    fun s => ⟨exec_pollStart s, exec_pollStop s⟩⟩

/-! ### The events of a reply -/

section
variable {k : Byte → Nat}

/-- Fuel that covers the data is enough: more of it does not change the records. -/
theorem eventsFuel_eq_of_length_le {f g : Nat} {data : List Byte} (hf : data.length ≤ f) (hg : data.length ≤ g) :
    eventsFuel k f data = eventsFuel k g data := by
  induction f generalizing g data with
  | zero =>
    obtain rfl : data = [] := List.eq_nil_of_length_eq_zero (Nat.le_zero.mp hf)
    cases g <;> rfl
  | succ f ih =>
    cases data with
    | nil => cases g <;> rfl
    | cons code rest =>
      cases g with
      | zero => exact absurd hg (Nat.not_succ_le_zero _)
      | succ g =>
        have hdrop : (rest.drop (k code)).length ≤ rest.length := by simp
        have hrest : eventsFuel k f (rest.drop (k code)) = eventsFuel k g (rest.drop (k code)) :=
          ih (hdrop.trans (Nat.le_of_succ_le_succ hf)) (hdrop.trans (Nat.le_of_succ_le_succ hg))
        rw [eventsFuel, eventsFuel, hrest]

@[simp] theorem eventsOf_nil : eventsOf k [] = [] := rfl

/-- R247: data that ends inside an event's arguments publishes `PollMalformed`. -/
theorem eventsOf_cons_of_lt {code : Byte} {rest : List Byte} (h : rest.length < k code) :
    eventsOf k (code :: rest) = [.pollMalformed code rest.length (k code)] := by
  rw [eventsOf, List.length_cons, eventsFuel, if_pos h]

/-- R247: whole events are published in payload order, before the records of what follows them. -/
theorem eventsOf_append {events : List (Byte × List Byte)} (he : ∀ e ∈ events, e.2.length = k e.1)
    (tail : List Byte) :
    eventsOf k ((events.flatMap fun e => e.1 :: e.2) ++ tail) =
      (events.map fun e => .event e.1 e.2) ++ eventsOf k tail := by
  obtain ⟨fuel, hfuel, heq⟩ := eventsFuel_append k events tail _ he le_rfl
  rw [eventsOf, heq, eventsFuel_eq_of_length_le hfuel le_rfl, eventsOf]

end

/-! ### Tick-end -/

/-- R91, R92: only the byte F0 is the status OK, whatever the other codes are. -/
theorem statusOf_eq_ok_iff (c : StatusCodes) (b : Byte) : statusOf c b = .ok ↔ b = 0xF0 := by
  by_cases h : b = 0xF0
  · simp [statusOf, Config.stOk, h]
  · have hother : statusOf c b ≠ .ok := by
      rw [statusOf, Config.stOk, if_neg h]
      split_ifs <;> nofun
    exact iff_of_false hother h

/-- R245: a tick-end whose exchange failed. -/
theorem tickEnd_of_error {s : State} {e : ErrKind}
    (h : replyOf s.par.status s.nextRead (receivedBytes s.nextRead) = .error e) :
    tickEnd s =
      (s.exchangeOver .poller).pollerDone { Results.blank with err := some e.code } [.pollError e] := by
  rw [tickEnd, sendFinish_of_error h, raise_poller]
  rfl

/-- R246, R247: a tick-end whose exchange got a Response. -/
theorem tickEnd_of_ok {s : State} {r : Response}
    (h : replyOf s.par.status s.nextRead (receivedBytes s.nextRead) = .ok r) :
    tickEnd s =
      (s.exchangeOver .poller).pollerDone (responseResults r s.xBit) (tickRecords s.par (.ok r)) := by
  rw [tickEnd, sendFinish_of_ok h, complete_poller]
  rfl

/-- R246, R247: the poller's turn on the reply `wireFrame st sa (status :: data)` publishes the events of `data` when
the status is OK, and the status alone otherwise. -/
theorem step_of_poller_reply {s : State} {st sa status : Byte} {data extra : List Byte} {b : BitVec 1}
    (hturn : s.nextTurn = .poller) (hlock : s.lock = .poller) (hxph : s.xph = .awaitReply) (hbit : s.xBit = some b)
    (hlen : data.length ≤ 254) (hread : s.turned.nextRead = .rOk (wireFrame st sa (status :: data) ++ extra)) :
    step s = .next ((s.turned.exchangeOver .poller).pollerDone (replyRecord s.par.status b st sa status data)
      (if status = 0xF0 then eventsOf (argLen s.par) data
        else [.pollStatus (statusOf s.par.status status).code status])) := by
  have hreply := replyOf_good s.turned.par.status st sa status data extra hlen
  rw [← hread] at hreply
  rw [step_of_poller_awaits hturn hlock hxph, tickEnd_of_ok hreply, turned_xBit, hbit,
    responseResults_eq_replyRecord, tickRecords]
  simp only [statusOf_eq_ok_iff, turned_par]

/-- Settles O36: the status is OK, and the records of the data are those of its whole events, then of its tail. -/
theorem tickEndPublishesEvents : Obligations.TickEndPublishesEvents := by
  unfold Obligations.TickEndPublishesEvents
  intro st sa events tail extra recs b s hturn hlock hxph hbit hevents htail hlen hread
  have hrecs : eventsOf (argLen s.par) tail = recs := by
    rcases htail with ⟨rfl, rfl⟩ | ⟨code, rest, rfl, hcut, rfl⟩
    · exact eventsOf_nil
    · exact eventsOf_cons_of_lt hcut
  rw [step_of_poller_reply hturn hlock hxph hbit hlen hread, if_pos rfl, eventsOf_append hevents, hrecs]

/-- Settles O37: a bad reply is an error of phase 2, and any other status than F0 takes the branch without events. -/
theorem tickEndReportsErrorOrStatus : Obligations.TickEndReportsErrorOrStatus := by
  unfold Obligations.TickEndReportsErrorOrStatus
  constructor
  case left =>
    intro s e code hturn hlock hxph hbad
    obtain ⟨hreply, rfl⟩ := replyOf_bad (c := s.turned.par.status) hbad
    rw [step_of_poller_awaits hturn hlock hxph, tickEnd_of_error hreply]
  case right =>
    intro st sa status data extra b s hturn hlock hxph hbit hstatus hlen hread
    rw [step_of_poller_reply hturn hlock hxph hbit hlen hread, if_neg hstatus]

end Sys2Proof.Machine
end

section
/-! The operand registers and the operation they start, R26 and R100: `decode` answers `i` exactly for the registers
that agree with the encoding of `i` on the code and on every operand `i` reads. -/

namespace Sys2Proof.Machine

/-! ### Agreement of operand registers -/

theorem OperandUse.agree_refl (u : OperandUse) (r : OperandRegs) : u.Agree r r :=
  ⟨rfl, fun _ => rfl, fun _ => rfl, fun _ => rfl, fun _ => rfl⟩

theorem OperandUse.Agree.symm {u : OperandUse} {r r' : OperandRegs} (h : u.Agree r r') : u.Agree r' r := by
  obtain ⟨hop, hseqAddr, hcmd, hver, ha⟩ := h
  exact ⟨hop.symm, fun hu => (hseqAddr hu).symm, fun hu => (hcmd hu).symm, fun hu => (hver hu).symm,
    fun hu => (ha hu).symm⟩

theorem OperandUse.Agree.trans {u : OperandUse} {r r' r'' : OperandRegs} (h : u.Agree r r') (h' : u.Agree r' r'') :
    u.Agree r r'' := by
  obtain ⟨hop, hseqAddr, hcmd, hver, ha⟩ := h
  obtain ⟨hop', hseqAddr', hcmd', hver', ha'⟩ := h'
  exact ⟨hop.trans hop', fun hu => (hseqAddr hu).trans (hseqAddr' hu), fun hu => (hcmd hu).trans (hcmd' hu),
    fun hu => (hver hu).trans (hver' hu), fun hu => (ha hu).trans (ha' hu)⟩

/-! ### What decodes to an operation -/

theorem withBuffer_eq_ok_iff {a : List Byte} {i j : Instr} : withBuffer a i = .ok j ↔ fitsBuffer a = true ∧ i = j := by
  unfold withBuffer
  split <;> simp [*]

/-- R26, R100: what decoded is well-formed, and its encoding is the registers on what the operation reads. -/
theorem agree_encode_of_decode {syncCmd : Byte} {r : OperandRegs} {i : Instr} (h : decode syncCmd r = .ok i) :
    i.wellFormed syncCmd = true ∧ (operandsRead i).Agree r (encode syncCmd i) := by
  unfold decode at h
  split at h
  case h_6 hop =>
    obtain ⟨hfits, rfl⟩ := withBuffer_eq_ok_iff.mp h
    have hcode : r.op = 0x6 := BitVec.eq_of_toNat_eq hop
    split
    next hsync => exact ⟨hfits, hcode, nofun, fun _ => hsync, nofun, fun _ => rfl⟩
    next hother =>
      exact ⟨Bool.and_eq_true_iff.mpr ⟨decide_eq_true hother, hfits⟩, hcode, nofun, fun _ => rfl, nofun, fun _ => rfl⟩
  case h_4 | h_5 | h_10 | h_11 =>
    cases h
    exact ⟨rfl, BitVec.eq_of_toNat_eq ‹_›, nofun, nofun, nofun, nofun⟩
  case h_12 => cases h
  all_goals
    obtain ⟨hfits, rfl⟩ := withBuffer_eq_ok_iff.mp h
    exact ⟨hfits, BitVec.eq_of_toNat_eq ‹_›, by simp [operandsRead, encode]⟩

/-- R26, R100: registers that agree with the encoding of a well-formed operation on what it reads decode to it. -/
theorem decode_of_agree_encode {syncCmd : Byte} {r : OperandRegs} {i : Instr} (hwf : i.wellFormed syncCmd = true)
    (h : (operandsRead i).Agree r (encode syncCmd i)) : decode syncCmd r = .ok i := by
  obtain ⟨hop, hseqAddr, hcmd, hver, ha⟩ := h
  cases i with
  | seqNext => exact decode_of_op_seqNext syncCmd hop
  | seqReset => exact decode_of_op_seqReset syncCmd hop
  | pollStart => exact decode_of_op_pollStart syncCmd hop
  | pollStop => exact decode_of_op_pollStop syncCmd hop
  | crc16 a =>
    obtain rfl : r.a = a := ha rfl
    exact (decode_of_op_crc16 syncCmd hop).trans (if_pos hwf)
  | encode seqAddr cmd data =>
    obtain rfl : r.seqAddr = seqAddr := hseqAddr rfl
    obtain rfl : r.cmd = cmd := hcmd rfl
    obtain rfl : r.a = data := ha rfl
    exact (decode_of_op_encode syncCmd hop).trans (if_pos hwf)
  | decode raw =>
    obtain rfl : r.a = raw := ha rfl
    exact (decode_of_op_decode syncCmd hop).trans (if_pos hwf)
  | send cmd data =>
    obtain rfl : r.cmd = cmd := hcmd rfl
    obtain rfl : r.a = data := ha rfl
    obtain ⟨hother, hfits⟩ := Bool.and_eq_true_iff.mp hwf
    exact (decode_of_op_send syncCmd hop (of_decide_eq_true hother)).trans (if_pos hfits)
  | sync data =>
    obtain rfl : r.a = data := ha rfl
    exact (decode_of_op_sync syncCmd hop (hcmd rfl)).trans (if_pos hwf)
  | decIdent p =>
    obtain rfl : r.a = p := ha rfl
    exact (decode_of_op_decIdent syncCmd hop).trans (if_pos hwf)
  | decChan ver p =>
    obtain rfl : r.ver = ver := hver rfl
    obtain rfl : r.a = p := ha rfl
    exact (decode_of_op_decChan syncCmd hop).trans (if_pos hwf)
  | decSetup p =>
    obtain rfl : r.a = p := ha rfl
    exact (decode_of_op_decSetup syncCmd hop).trans (if_pos hwf)

/-- Settles O47: the encoding of an operation agrees with itself. -/
theorem decodeOfEncode : Obligations.DecodeOfEncode := by
  unfold Obligations.DecodeOfEncode
  intro syncCmd i hwf
  exact decode_of_agree_encode hwf ((operandsRead i).agree_refl _)

/-- Settles O48: registers that agree with ones that decode to `i` agree with the encoding of `i` as those do. -/
theorem decodeReadsOnlyItsOperands : Obligations.DecodeReadsOnlyItsOperands := by
  unfold Obligations.DecodeReadsOnlyItsOperands
  intro syncCmd r i h
  obtain ⟨hwf, hagree⟩ := agree_encode_of_decode h
  exact ⟨hwf, hagree, fun r' hr' => decode_of_agree_encode hwf (hr'.symm.trans hagree)⟩

/-- Settles O49: each word by its row of the operation table. -/
theorem sampleCodesDecode : Obligations.SampleCodesDecode := by
  unfold Obligations.SampleCodesDecode
  exact ⟨rfl, rfl, rfl, rfl, rfl, rfl, rfl⟩

/-! ### What the host's turn does with it -/

theorem decode_of_runs {s : State} {i : Instr} (h : s.Runs i) : decode s.par.syncCmd s.host.opnd = .ok i := by
  obtain ⟨-, -, -, hdecode⟩ := h
  exact hdecode

/-- Settles O44: the presented operation decoded, so it is well-formed, and the host's turn runs it. -/
theorem stepRunsPresentedOperation : Obligations.StepRunsPresentedOperation := by
  unfold Obligations.StepRunsPresentedOperation
  intro i s hruns
  obtain ⟨hwf, -⟩ := agree_encode_of_decode (decode_of_runs hruns)
  exact ⟨hwf, step_of_runs hruns⟩

/-- Settles O46: the fetch of an unassigned code answers `IllegalOp`, which the host's turn raises. -/
theorem unassignedCodesAreIllegal : Obligations.UnassignedCodesAreIllegal := by
  unfold Obligations.UnassignedCodesAreIllegal
  intro s hturn hawaits hpending hop
  have hfetch : s.turned.fetch = .error .illegalOp := decode_of_op_unassigned s.par.syncCmd hop
  rw [step_host s hturn, hostTurn, if_neg (by simp [hawaits]), if_pos (by simp [hpending]), hfetch]
  rfl

end Sys2Proof.Machine
end

section
/-! The algebra of the checksum, R125 and R126: a round is linear over exclusive or and loses nothing, so the fold of a
string keeps two accumulators apart; and what stands in bits 7:0 alone moves to bits 15:8 without a reduction. -/

namespace Sys2Proof.Machine

/-! ### Linearity -/

theorem xor_xor_xor_comm {w : Nat} (x x' y y' : BitVec w) :
    (x ^^^ x') ^^^ (y ^^^ y') = (x ^^^ y) ^^^ (x' ^^^ y') := by
  ac_rfl

/-- What a round reduces by: the generator when bit 15 is set. -/
def crcReduction (msb : Bool) : Word16 := if msb then Config.crcPoly else 0

theorem crcRound_eq_xor (x : Word16) : crcRound x = (x <<< 1) ^^^ crcReduction x.msb := by
  unfold crcRound crcReduction
  split
  case isTrue => rfl
  case isFalse => exact BitVec.xor_zero.symm

theorem crcReduction_xor (p q : Bool) : crcReduction (p ^^ q) = crcReduction p ^^^ crcReduction q := by
  cases p <;> cases q <;> rfl

theorem crcRound_xor (x y : Word16) : crcRound (x ^^^ y) = crcRound x ^^^ crcRound y := by
  simp only [crcRound_eq_xor, BitVec.msb_xor, BitVec.shiftLeft_xor_distrib, crcReduction_xor]
  exact xor_xor_xor_comm _ _ _ _

theorem crcRounds_xor (n : Nat) (x y : Word16) : crcRounds n (x ^^^ y) = crcRounds n x ^^^ crcRounds n y := by
  induction n generalizing x y with
  | zero => rfl
  | succ n ih => rw [crcRounds, crcRounds, crcRounds, crcRound_xor, ih]

/-- Moving a byte into bits 15:8 is linear. -/
theorem byteHigh_xor (b b' : Byte) :
    (b ^^^ b').setWidth 16 <<< 8 = (b.setWidth 16 <<< 8) ^^^ (b'.setWidth 16 <<< 8) := by
  rw [BitVec.setWidth_xor, BitVec.shiftLeft_xor_distrib]

/-- Settles O3: the byte and the accumulator meet in an exclusive or, and every round is linear. -/
theorem crcByteIsLinear : Obligations.CrcByteIsLinear := by
  unfold Obligations.CrcByteIsLinear
  intro acc acc' b b'
  rw [crcByte, byteHigh_xor, xor_xor_xor_comm, crcRounds_xor, ← crcByte, ← crcByte]

/-! ### Nothing is lost -/

theorem eq_of_xor_eq_zero {w : Nat} {x y : BitVec w} (h : x ^^^ y = 0#w) : x = y := by
  have hxy : (x ^^^ y) ^^^ y = y := by rw [h, BitVec.zero_xor]
  rwa [BitVec.xor_assoc, BitVec.xor_self, BitVec.xor_zero] at hxy

/-- A round that gives 0 was a round of 0: the generator has bit 0, which the shift leaves clear. -/
theorem eq_zero_of_crcRound_eq_zero {x : Word16} (h : crcRound x = 0) : x = 0 := by
  unfold crcRound at h
  split at h
  case isTrue =>
    have hbit := congrArg (fun w : Word16 => w.getLsbD 0) h
    simp [Config.crcPoly] at hbit
  case isFalse hmsb =>
    have hlow : x.toNat < 32768 := by
      have := mt (msb_eq_true_iff_toNat x).mpr hmsb
      have := x.isLt
      omega
    have hzero := congrArg BitVec.toNat h
    rw [toNat_shiftLeft_one] at hzero
    apply BitVec.eq_of_toNat_eq
    simp at hzero ⊢
    omega

theorem crcRound_injective : Function.Injective crcRound := by
  intro x y h
  apply eq_of_xor_eq_zero
  apply eq_zero_of_crcRound_eq_zero
  rw [crcRound_xor, h]
  exact BitVec.xor_self

theorem crcRounds_injective (n : Nat) : Function.Injective (crcRounds n) := by
  induction n with
  | zero => exact fun _ _ h => h
  | succ n ih => exact fun _ _ h => crcRound_injective (ih h)

/-- Two accumulators stay apart under a byte. -/
theorem crcByte_left_injective (b : Byte) : Function.Injective fun acc => crcByte acc b :=
  fun _ _ h => (BitVec.xor_left_inj _).mp (crcRounds_injective 8 h)

/-- Two bytes take an accumulator apart. -/
theorem crcByte_right_injective (acc : Word16) : Function.Injective (crcByte acc) := by
  intro b b' h
  have hhigh : b.setWidth 16 <<< 8 = b'.setWidth 16 <<< 8 := (BitVec.xor_right_inj _).mp (crcRounds_injective 8 h)
  have hnat := congrArg BitVec.toNat hhigh
  rw [toNat_byte_shiftLeft_eight, toNat_byte_shiftLeft_eight] at hnat
  exact BitVec.eq_of_toNat_eq (by omega)

theorem crcFold_injective (bytes : List Byte) : Function.Injective (crcFold bytes) := by
  induction bytes with
  | nil => exact fun _ _ h => h
  | cons b rest ih =>
    intro acc acc' h
    rw [crcFold, crcFold, evaluated_eq, evaluated_eq] at h
    exact crcByte_left_injective b (ih h)

/-- R126 (a): the accumulators agree up to the byte, the byte takes them apart, and the rest keeps them so. -/
theorem crc16_ne_of_byte_ne {b b' : Byte} (hne : b ≠ b') (front back : List Byte) :
    crc16 (front ++ b :: back) ≠ crc16 (front ++ b' :: back) := by
  intro h
  rw [crc16_append, crc16_append, crcFold, crcFold, evaluated_eq, evaluated_eq] at h
  exact hne (crcByte_right_injective _ (crcFold_injective back h))

/-- Settles O4: every byte and every accumulator leaves its trace in the fold. -/
theorem crcSeesEveryOneByteChange : Obligations.CrcSeesEveryOneByteChange := by
  unfold Obligations.CrcSeesEveryOneByteChange
  intro front back b b' hne
  exact crc16_ne_of_byte_ne hne front back

/-! ### The residue -/

/-- Rounds that move no bit beyond bit 15 are a shift. -/
theorem toNat_crcRounds_of_lt {n : Nat} {x : Word16} (h : x.toNat * 2 ^ n < 65536) :
    (crcRounds n x).toNat = x.toNat * 2 ^ n := by
  induction n generalizing x with
  | zero => simp [crcRounds]
  | succ n ih =>
    have hpow : 1 ≤ 2 ^ n := Nat.one_le_two_pow
    have hsplit : x.toNat * 2 ^ (n + 1) = x.toNat * 2 * 2 ^ n := by rw [Nat.pow_succ']; ring
    have hdouble : x.toNat * 2 < 65536 := lt_of_le_of_lt (Nat.le_mul_of_pos_right _ hpow) (hsplit ▸ h)
    have hmsb : ¬ x.msb = true := mt (msb_eq_true_iff_toNat x).mp (by omega)
    have hround : (crcRound x).toNat = x.toNat * 2 := by
      rw [crcRound, if_neg hmsb, toNat_shiftLeft_one, Nat.mod_eq_of_lt hdouble]
    rw [crcRounds, ih (by rwa [hround, ← hsplit]), hround, hsplit]

theorem crcRounds_eight_low (b : Byte) : crcRounds 8 (b.setWidth 16) = b.setWidth 16 <<< 8 := by
  have hb : (b.setWidth 16).toNat = b.toNat := by
    rw [BitVec.toNat_setWidth, Nat.mod_eq_of_lt (by omega)]
  apply BitVec.eq_of_toNat_eq
  rw [toNat_crcRounds_of_lt (by omega), hb, toNat_byte_shiftLeft_eight]
  rfl

/-- The high byte cancels bits 15:8, and what is left moves up without a reduction. -/
theorem crcByte_highByte (c : Word16) : crcByte c (highByte c) = (lowByte c).setWidth 16 <<< 8 := by
  have hlow : c ^^^ ((highByte c).setWidth 16 <<< 8) = (lowByte c).setWidth 16 := by
    ext i hi
    by_cases h : i < 8
    case pos => simp [highByte, lowByte, h, BitVec.getLsbD_eq_getElem hi]
    case neg =>
      have hbit : i - 8 < 8 := by omega
      have hback : 8 + (i - 8) = i := by omega
      simp [highByte, lowByte, h, hbit, hback, BitVec.getLsbD_eq_getElem hi]
  rw [crcByte, hlow, crcRounds_eight_low]

/-- A byte that stands alone in bits 15:8 cancels itself. -/
theorem crcByte_self (b : Byte) : crcByte (b.setWidth 16 <<< 8) b = 0 := by
  rw [crcByte, BitVec.xor_self]
  rfl

/-- Settles O5: the first of the two bytes leaves the second in bits 15:8, which that one cancels. -/
theorem crcResidueIsZeroHighByteFirst : Obligations.CrcResidueIsZeroHighByteFirst := by
  unfold Obligations.CrcResidueIsZeroHighByteFirst
  intro bytes
  change crc16 (bytes ++ [highByte (crc16 bytes), lowByte (crc16 bytes)]) = 0
  rw [crc16_append]
  simp only [crcFold, evaluated_eq, crcByte_highByte, crcByte_self]

end Sys2Proof.Machine
end

section
/-! Damaged frames, R140 to R151: `DECODE` of a frame whose start byte, a byte under the checksum or a byte of the
checksum was changed. -/

namespace Sys2Proof.Machine

/-- Settles O7: what `DECODE` answers on a wire frame. -/
theorem decodeCompletesOnGoodFrames : Obligations.DecodeCompletesOnGoodFrames := by
  unfold Obligations.DecodeCompletesOnGoodFrames
  intro st sa payload extra s h
  exact exec_decode_wireFrame h st sa extra s

/-- R126 (a), for a byte replaced in place. -/
theorem crc16_set_ne {bytes : List Byte} {i : Nat} {new : Byte} (hi : i < bytes.length)
    (hne : bytes[i]? ≠ some new) : crc16 (bytes.set i new) ≠ crc16 bytes := by
  have hold : bytes = bytes.take i ++ bytes[i] :: bytes.drop (i + 1) := by simp
  have hnew : bytes[i] ≠ new := fun h => hne (by rw [List.getElem?_eq_getElem hi, h])
  rw [List.set_eq_take_append_cons_drop, if_pos hi]
  intro h
  exact crc16_ne_of_byte_ne hnew.symm _ _ (h.trans (congrArg crc16 hold))

/-- The frame as `DECODE` reads it: three bytes, the payload, two checksum bytes. -/
theorem wireFrame_eq_append (st sa : Byte) (payload : List Byte) :
    wireFrame st sa payload =
      st :: sa :: BitVec.ofNat 8 payload.length :: payload ++
        [lowByte (crc16 (sa :: BitVec.ofNat 8 payload.length :: payload)),
          highByte (crc16 (sa :: BitVec.ofNat 8 payload.length :: payload))] := by
  simp [wireFrame, lowByte, highByte]

/-- R85: other bytes are another checksum. -/
theorem bytes_eq_of_checksum_eq {lo hi : Byte} {c : Word16} (h : lo.toNat + 256 * hi.toNat = c.toNat) :
    lo = lowByte c ∧ hi = highByte c := by
  have hc := lowByte_add_highByte c
  have hlo := lo.isLt
  have hlo' := (lowByte c).isLt
  exact ⟨BitVec.eq_of_toNat_eq (by omega), BitVec.eq_of_toNat_eq (by omega)⟩

section
variable {st sa new : Byte} {payload : List Byte} (hlen : payload.length ≤ 255)
include hlen

theorem length_eq_toNat_ofNat : payload.length = (BitVec.ofNat 8 payload.length).toNat := by
  rw [BitVec.toNat_ofNat, Nat.mod_eq_of_lt (by omega)]

/-- R151: the sequence/address byte is under the checksum. -/
theorem decodeFrame_seqAddr_changed (hne : sa ≠ new) :
    decodeFrame ((wireFrame st sa payload).set 1 new) = .error .checksumMismatch := by
  have hcrc : crc16 (new :: BitVec.ofNat 8 payload.length :: payload) ≠
      crc16 (sa :: BitVec.ofNat 8 payload.length :: payload) :=
    crc16_set_ne (bytes := sa :: BitVec.ofNat 8 payload.length :: payload) (i := 0) (by simp) (by simpa using hne)
  rw [wireFrame_eq_append]
  refine decodeFrame_wrong_checksum [] (length_eq_toNat_ofNat hlen) ?_
  rw [lowByte_add_highByte]
  exact fun h => hcrc (BitVec.eq_of_toNat_eq h).symm

/-- R151: so is the payload. -/
theorem decodeFrame_payload_changed {j : Nat} (hj : j < payload.length) (hne : payload[j]? ≠ some new) :
    decodeFrame ((wireFrame st sa payload).set (j + 3) new) = .error .checksumMismatch := by
  have hcrc : crc16 (sa :: BitVec.ofNat 8 payload.length :: payload.set j new) ≠
      crc16 (sa :: BitVec.ofNat 8 payload.length :: payload) :=
    crc16_set_ne (bytes := sa :: BitVec.ofNat 8 payload.length :: payload) (i := j + 2) (by simpa using hj)
      (by simpa using hne)
  rw [wireFrame_eq_append, List.set_append_left _ _ (by simpa using hj)]
  refine decodeFrame_wrong_checksum [] ?_ ?_
  · rw [List.length_set]
    exact length_eq_toNat_ofNat hlen
  · rw [lowByte_add_highByte]
    exact fun h => hcrc (BitVec.eq_of_toNat_eq h).symm

/-- R144, R151: and each of the two checksum bytes is compared. -/
theorem decodeFrame_checksum_changed {j : Nat} (hj : j < 2)
    (hne : (checksumBytes (crc16 (sa :: BitVec.ofNat 8 payload.length :: payload)))[j]? ≠ some new) :
    decodeFrame ((wireFrame st sa payload).set (payload.length + 3 + j) new) = .error .checksumMismatch := by
  have hlen' := length_eq_toNat_ofNat hlen
  have hindex : payload.length + 3 + j - (st :: sa :: BitVec.ofNat 8 payload.length :: payload).length = j := by simp
  rw [wireFrame_eq_append, List.set_append_right _ _ (by simp), hindex]
  match j with
  | 0 =>
    refine decodeFrame_wrong_checksum [] hlen' fun h => hne ?_
    obtain ⟨rfl, -⟩ := bytes_eq_of_checksum_eq h
    rfl
  | 1 =>
    refine decodeFrame_wrong_checksum [] hlen' fun h => hne ?_
    obtain ⟨-, rfl⟩ := bytes_eq_of_checksum_eq h
    rfl

end

theorem wireFrame_getElem?_payload {st sa : Byte} {payload : List Byte} {j : Nat} (hj : j < payload.length) :
    (wireFrame st sa payload)[j + 3]? = payload[j]? := by
  simp [wireFrame, List.getElem?_append_left hj]

theorem wireFrame_getElem?_checksum (st sa : Byte) (payload : List Byte) (j : Nat) :
    (wireFrame st sa payload)[payload.length + 3 + j]? =
      (checksumBytes (crc16 (sa :: BitVec.ofNat 8 payload.length :: payload)))[j]? := by
  rw [wireFrame_eq_append, List.getElem?_append_right (by simp)]
  simp [checksumBytes]

/-- R151: any byte but the start marker and the length byte. -/
theorem decodeFrame_changed {st sa new : Byte} {payload : List Byte} {k : Nat} (hlen : payload.length ≤ 255)
    (hk : k = 1 ∨ 3 ≤ k) (hlt : k < (wireFrame st sa payload).length)
    (hne : (wireFrame st sa payload)[k]? ≠ some new) :
    decodeFrame ((wireFrame st sa payload).set k new) = .error .checksumMismatch := by
  rw [wireFrame_length] at hlt
  rcases hk with rfl | hk
  case inl => exact decodeFrame_seqAddr_changed hlen fun h => hne (congrArg some h)
  case inr =>
    by_cases hpay : k < payload.length + 3
    case pos =>
      obtain ⟨j, rfl⟩ := Nat.exists_eq_add_of_le' hk
      have hj : j < payload.length := by omega
      exact decodeFrame_payload_changed hlen hj (wireFrame_getElem?_payload hj ▸ hne)
    case neg =>
      obtain ⟨j, rfl⟩ := Nat.exists_eq_add_of_le (Nat.le_of_not_lt hpay)
      exact decodeFrame_checksum_changed hlen (by omega) (wireFrame_getElem?_checksum st sa payload j ▸ hne)

/-- Settles O10: the checksum sees the change, and the start marker is under no test. -/
theorem damagedFramesFailChecksum : Obligations.DamagedFramesFailChecksum := by
  unfold Obligations.DamagedFramesFailChecksum
  intro sa cmd new data k s hlen hk hlt hne
  have hlen' : (cmd :: data).length ≤ 255 := Nat.succ_le_succ hlen
  constructor
  case left => exact exec_decode_of_error (decodeFrame_changed hlen' hk hlt hne) s
  case right =>
    have hstart : (wireFrame 0x7F sa (cmd :: data)).set 0 new = wireFrame new sa (cmd :: data) ++ [] := by
      rw [List.append_nil]
      rfl
    rw [hstart]
    exact ⟨_, exec_decode_wireFrame hlen' new sa [] s, rfl, rfl, rfl⟩

end Sys2Proof.Machine
end

section
/-! Phase 1 of an exchange, R170 to R180: one equation of `sendStart` per way it ends, for either agent; then `SEND` and
`SYNC` as operations of the host port, a whole `SEND`, and tick-begin, which is phase 1 by the poller. -/

namespace Sys2Proof.Machine

/-! ### How phase 1 ends -/

theorem release_of_lock_free {s : State} (h : s.lock = .free) : s.release = s := by
  rw [release_eq, ← h]

theorem sentFrame_eq_commandWire_bitFor (cmd : Byte) (data : List Byte) (s : State) :
    s.sentFrame cmd data = commandWire (s.bitFor cmd) s.cfg.addr cmd data := by
  rw [sentFrame_eq_commandWire, sentBit_eq_bitFor]

/-- R34, R176, R178: the frame of a command was written and answered with `ans`. -/
def State.afterWriting (a : Agent) (cmd : Byte) (data : List Byte) (ans : WriteAnswer) (s : State) : State :=
  { s with
    seq := s.seqAfter cmd, inp := s.inp.afterWrite,
    calls := s.calls ++ [.write a (commandWire (s.bitFor cmd) s.cfg.addr cmd data) ans] }

section
variable {a : Agent} {cmd : Byte} {data : List Byte} {s : State}

/-- R172: without a connection phase 1 ends at its first test. -/
theorem sendStart_of_not_connected (hlock : s.lock = .free) (hconn : s.connected = false) :
    sendStart a cmd data s = (s.raise a .notConnected, some .notConnected) := by
  rcases sendStart_cases a cmd data s with ⟨_, h⟩ | ⟨hc, _⟩ | ⟨hc, _⟩ | ⟨hc, _⟩
  case inl => rw [h, release_of_lock_free hlock]
  all_goals exact absurd (hconn.symm.trans hc) nofun

/-- R177: data the frame cannot count ends it after the sequence step. -/
theorem sendStart_of_too_large (hlock : s.lock = .free) (hconn : s.connected = true) (hlen : 254 < data.length) :
    sendStart a cmd data s = ((s.setSeq (s.seqAfter cmd)).raise a .frameTooLarge, some .frameTooLarge) := by
  rcases sendStart_cases a cmd data s with ⟨hc, _⟩ | ⟨_, _, h⟩ | ⟨_, hl, _⟩ | ⟨_, hl, _⟩
  case inl => exact absurd (hconn.symm.trans hc) nofun
  case inr.inl => rw [h, release_of_lock_free (by simpa using hlock)]
  all_goals exact absurd hl (Nat.not_le.mpr hlen)

/-- R178, R179: a failed write ends it with the call made and `TXBUF` empty. -/
theorem sendStart_of_wErr (hlock : s.lock = .free) (hconn : s.connected = true) (hlen : data.length ≤ 254)
    (hwrite : s.nextWrite (commandWire (s.bitFor cmd) s.cfg.addr cmd data) = .wErr) :
    sendStart a cmd data s =
      (({ s.afterWriting a cmd data .wErr with txBuf := [] } : State).raise a .writeFailed, some .writeFailed) := by
  rw [← sentFrame_eq_commandWire_bitFor] at hwrite
  rcases sendStart_cases a cmd data s with ⟨hc, _⟩ | ⟨_, hl, _⟩ | ⟨_, _, _, h⟩ | ⟨_, _, ⟨n, hw⟩, _⟩
  case inl => exact absurd (hconn.symm.trans hc) nofun
  case inr.inl => exact absurd hlen (Nat.not_le.mpr hl)
  case inr.inr.inl =>
    rw [h, release_of_lock_free (by simpa [State.tWrite] using hlock), State.afterWriting, ← hwrite,
      ← sentFrame_eq_commandWire_bitFor]
    rfl
  case inr.inr.inr => exact absurd (hwrite.symm.trans hw) nofun

/-- R178, R180: an answered write leaves the exchange awaiting its reply. -/
theorem sendStart_of_wOk {n : Nat} (hconn : s.connected = true) (hlen : data.length ≤ 254)
    (hwrite : s.nextWrite (commandWire (s.bitFor cmd) s.cfg.addr cmd data) = .wOk n) :
    sendStart a cmd data s =
      (({ s.afterWriting a cmd data (.wOk n) with
          lock := Lock.ofAgent a, xph := .awaitReply, xBit := some (s.bitFor cmd),
          txBuf := commandWire (s.bitFor cmd) s.cfg.addr cmd data } : State).begun a, none) := by
  rw [← sentFrame_eq_commandWire_bitFor] at hwrite
  rcases sendStart_cases a cmd data s with ⟨hc, _⟩ | ⟨_, hl, _⟩ | ⟨_, _, hw, _⟩ | ⟨_, _, _, h⟩
  case inl => exact absurd (hconn.symm.trans hc) nofun
  case inr.inl => exact absurd hlen (Nat.not_le.mpr hl)
  case inr.inr.inl => exact absurd (hwrite.symm.trans hw) nofun
  case inr.inr.inr =>
    rw [h, State.afterWriting, ← hwrite, ← sentFrame_eq_commandWire_bitFor, sentBit_eq_bitFor]
    rfl

end

/-! ### SEND and SYNC -/

/-- R174: the synchronization command in either form is phase 1 with `SYNC_CMD`. -/
theorem exec_synchronization {i : Instr} {data : List Byte} {s : State}
    (hi : i = .sync data ∨ i = .send s.par.syncCmd data) (hlock : s.lock = .free) :
    exec i s = .next (sendStart .host s.par.syncCmd data s).1 := by
  rcases hi with rfl | rfl
  case inl => exact exec_sync_of_lock_free hlock data
  case inr => exact exec_send_of_lock_free hlock s.par.syncCmd data

/-- Settles O13: each of the four tests the lock first. -/
theorem lockedOperationsHold : Obligations.LockedOperationsHold := by
  unfold Obligations.LockedOperationsHold
  intro s cmd data hlock
  exact ⟨exec_seqNext_of_lock_ne_free hlock, exec_seqReset_of_lock_ne_free hlock, if_neg hlock, if_neg hlock⟩

/-- Settles O16: an ordinary command carries `SEQ` and flips it. -/
theorem sendStartsExchange : Obligations.SendStartsExchange := by
  unfold Obligations.SendStartsExchange
  intro cmd data s n hlock hconn hcmd hlen hwrite
  rw [← bitFor_of_ne_syncCmd hcmd] at hwrite
  rw [exec_send_of_lock_free hlock, sendStart_of_wOk hconn hlen hwrite, State.afterWriting,
    seqAfter_of_ne_syncCmd hcmd, bitFor_of_ne_syncCmd hcmd]
  rfl

/-- Settles O17: the synchronization command carries 0 and leaves 0. -/
theorem syncStartsExchange : Obligations.SyncStartsExchange := by
  unfold Obligations.SyncStartsExchange
  intro i data s n hi hlock hconn hlen hwrite
  have hbit : s.bitFor s.par.syncCmd = 0 := bitFor_of_eq_syncCmd rfl
  rw [← hbit] at hwrite
  rw [exec_synchronization hi hlock, sendStart_of_wOk hconn hlen hwrite, State.afterWriting,
    seqAfter_of_eq_syncCmd rfl, hbit]
  rfl

/-- Settles O18: the test of `CONNECTED` comes before the sequence step. -/
theorem sendNeedsConnection : Obligations.SendNeedsConnection := by
  unfold Obligations.SendNeedsConnection
  intro i cmd data s hi hlock hconn
  rcases hi with rfl | rfl
  case inl =>
    rw [exec_sync_of_lock_free hlock, sendStart_of_not_connected hlock hconn]
    rfl
  case inr =>
    rw [exec_send_of_lock_free hlock, sendStart_of_not_connected hlock hconn]
    rfl

/-- Settles O19: the test of the data's length comes after it. -/
theorem sendTooLargeConsumesBit : Obligations.SendTooLargeConsumesBit := by
  unfold Obligations.SendTooLargeConsumesBit
  intro cmd data s hlock hconn hlen
  have hsync {i : Instr} (hi : i = .sync data ∨ i = .send s.par.syncCmd data) :
      exec i s = .next { s.hostErr 0x8 with seq := 0 } := by
    rw [exec_synchronization hi hlock, sendStart_of_too_large hlock hconn hlen, seqAfter_of_eq_syncCmd rfl]
    rfl
  refine ⟨?ordinary, hsync (.inr rfl), hsync (.inl rfl)⟩
  case ordinary =>
    intro hcmd
    rw [exec_send_of_lock_free hlock, sendStart_of_too_large hlock hconn hlen, seqAfter_of_ne_syncCmd hcmd]
    rfl

/-- Settles O20: the write comes last, and its failure leaves the sequence step and the one call. -/
theorem sendWriteFailure : Obligations.SendWriteFailure := by
  unfold Obligations.SendWriteFailure
  intro cmd data s hlock hconn hlen
  constructor
  case left =>
    intro hcmd hwrite
    rw [← bitFor_of_ne_syncCmd hcmd] at hwrite
    rw [exec_send_of_lock_free hlock, sendStart_of_wErr hlock hconn hlen hwrite, State.afterWriting,
      seqAfter_of_ne_syncCmd hcmd, bitFor_of_ne_syncCmd hcmd]
    rfl
  case right =>
    intro i hi hwrite
    have hbit : s.bitFor s.par.syncCmd = 0 := bitFor_of_eq_syncCmd rfl
    rw [← hbit] at hwrite
    rw [exec_synchronization hi hlock, sendStart_of_wErr hlock hconn hlen hwrite, State.afterWriting,
      seqAfter_of_eq_syncCmd rfl, hbit]
    rfl

/-! ### A whole SEND -/

theorem nextTurn_of_turns {s : State} {t : Turn} {rest : List Turn} (h : s.inp.turns = t :: rest) : s.nextTurn = t := by
  rw [State.nextTurn, h]

/-- A scripted answer does not depend on the history. -/
theorem nextWrite_eq_of_writes_eq {s t : State} (h : t.inp.writes = s.inp.writes) (hne : s.inp.writes ≠ [])
    (bytes : List Byte) : t.nextWrite bytes = s.nextWrite bytes := by
  obtain ⟨ans, rest, hcons⟩ := List.exists_cons_of_ne_nil hne
  rw [State.nextWrite, State.nextWrite, h, hcons]

theorem nextRead_eq_of_reads_eq {s t : State} (h : t.inp.reads = s.inp.reads) (hne : s.inp.reads ≠ []) :
    t.nextRead = s.nextRead := by
  obtain ⟨ans, rest, hcons⟩ := List.exists_cons_of_ne_nil hne
  rw [State.nextRead, State.nextRead, h, hcons]

theorem afterTurn_turns {i : Inputs} {t : Turn} {rest : List Turn} (h : i.turns = t :: rest) :
    i.afterTurn.turns = rest := by
  rw [Inputs.afterTurn, h]

@[simp] theorem afterTurn_writes (i : Inputs) : i.afterTurn.writes = i.writes := by
  unfold Inputs.afterTurn
  split <;> rfl

@[simp] theorem afterTurn_reads (i : Inputs) : i.afterTurn.reads = i.reads := by
  unfold Inputs.afterTurn
  split <;> rfl

@[simp] theorem afterWrite_turns (i : Inputs) : i.afterWrite.turns = i.turns := by
  unfold Inputs.afterWrite
  split <;> rfl

@[simp] theorem afterWrite_reads (i : Inputs) : i.afterWrite.reads = i.reads := by
  unfold Inputs.afterWrite
  split <;> rfl

@[simp] theorem afterRead_turns (i : Inputs) : i.afterRead.turns = i.turns := by
  unfold Inputs.afterRead
  split <;> rfl

/-- R175, R180: the host's exchange of an ordinary command is begun. -/
def State.sendBegun (cmd : Byte) (data : List Byte) (n : Nat) (s : State) : State :=
  { s with
    seq := s.seq ^^^ 1, lock := .host, xph := .awaitReply, xBit := some s.seq,
    txBuf := commandWire s.seq s.cfg.addr cmd data, hostPending := false, inp := s.inp.afterWrite,
    calls := s.calls ++ [.write .host (commandWire s.seq s.cfg.addr cmd data) (.wOk n)] }

theorem step_of_runs_send {cmd : Byte} {data : List Byte} {n : Nat} {s : State} (hruns : s.Runs (.send cmd data))
    (hlock : s.lock = .free) (hconn : s.connected = true) (hlen : data.length ≤ 254)
    (hwrite : s.turned.nextWrite (commandWire s.seq s.cfg.addr cmd data) = .wOk n) :
    step s = .next (s.turned.sendBegun cmd data n) := by
  obtain ⟨hwf, -⟩ := agree_encode_of_decode (decode_of_runs hruns)
  obtain ⟨hcmd, -⟩ := Bool.and_eq_true_iff.mp hwf
  rw [step_of_runs hruns]
  exact sendStartsExchange cmd data s.turned n hlock hconn (of_decide_eq_true hcmd) hlen hwrite

theorem sendBegun_turned_turns {s : State} {t : Turn} {rest : List Turn} (h : s.inp.turns = t :: rest) (cmd : Byte)
    (data : List Byte) (n : Nat) : (s.turned.sendBegun cmd data n).inp.turns = rest :=
  (afterWrite_turns _).trans (afterTurn_turns h)

theorem sendBegun_turned_reads (cmd : Byte) (data : List Byte) (n : Nat) (s : State) :
    (s.turned.sendBegun cmd data n).inp.reads = s.inp.reads :=
  (afterWrite_reads _).trans (afterTurn_reads _)

/-- Settles O23: the first turn is phase 1 of the presented command, the second phase 2 on the reply. The scripts decide
both turns and both answers, so each answer is the one `s` holds. -/
theorem wholeSendTakesTwoHostTurns : Obligations.WholeSendTakesTwoHostTurns := by
  unfold Obligations.WholeSendTakesTwoHostTurns
  intro cmd st sa status data reply extra turns n s hturns hlock hpending hconn hdecode hlen hreply hwrite hwrites
    hread hreads
  have hawaits : s.hostAwaits = false := by simp [State.hostAwaits, hlock]
  have hwrite' : s.turned.nextWrite (commandWire s.seq s.cfg.addr cmd data) = .wOk n :=
    (nextWrite_eq_of_writes_eq (afterTurn_writes _) hwrites _).trans hwrite
  have hphase1 := step_of_runs_send ⟨nextTurn_of_turns hturns, hawaits, hpending, hdecode⟩ hlock hconn hlen hwrite'
  have hturns' := sendBegun_turned_turns hturns cmd data n
  have hread' : (s.turned.sendBegun cmd data n).turned.nextRead = .rOk (wireFrame st sa (status :: reply) ++ extra) :=
    (nextRead_eq_of_reads_eq ((afterTurn_reads _).trans (sendBegun_turned_reads cmd data n s)) hreads).trans hread
  have hphase2 := replyCompletesHostSend st sa status reply extra s.seq _ (nextTurn_of_turns hturns') rfl rfl rfl
    hreply hread'
  refine ⟨_, _, hphase1, hphase2, rfl, rfl, rfl, rfl, rfl, rfl, ?turns, ?calls⟩
  case turns => exact (afterRead_turns _).trans (afterTurn_turns hturns')
  case calls =>
    calc (s.turned.sendBegun cmd data n).calls ++ [.read .host (s.turned.sendBegun cmd data n).turned.nextRead]
        = (s.turned.sendBegun cmd data n).calls ++
            [.read .host (.rOk (wireFrame st sa (status :: reply) ++ extra))] := by rw [hread']
      _ = _ := List.append_assoc _ _ _

/-! ### Tick-begin -/

/-- R244: the state whose poller's port presents the poll. -/
def State.polling (s : State) : State := s.setOpnd .poller (pollOpnd s.par)

theorem tickBegin_eq (s : State) :
    tickBegin s = (sendStart .poller s.par.pollCmd [] s.polling).1.publish
      (startRecords (sendStart .poller s.par.pollCmd [] s.polling).2) := rfl

/-- Settles O34: the poller's phase 1 of an ordinary command without data, which publishes nothing. -/
theorem tickBeginStartsPoll : Obligations.TickBeginStartsPoll := by
  unfold Obligations.TickBeginStartsPoll
  intro s n hturn hrun hlock hconn hcmd hwrite
  have hbit : s.turned.polling.bitFor s.par.pollCmd = s.seq := bitFor_of_ne_syncCmd (s := s.turned.polling) hcmd
  have hseq : s.turned.polling.seqAfter s.par.pollCmd = s.seq ^^^ 1 :=
    seqAfter_of_ne_syncCmd (s := s.turned.polling) hcmd
  have hphase1 := sendStart_of_wOk (a := .poller) (s := s.turned.polling) (cmd := s.par.pollCmd) (data := []) (n := n)
    hconn (Nat.zero_le _) (by rw [hbit]; exact hwrite)
  refine ⟨pollOpnd s.par, rfl, rfl, rfl, ?_⟩
  rw [step_of_tickEnabled hturn hrun hlock, tickBegin_eq, turned_par, hphase1, State.afterWriting, hbit, hseq]
  simp only [startRecords, State.publish, List.append_nil]
  rfl

/-- Settles O35: what phase 1 ends with is published, and nothing of the host's port is touched. -/
theorem tickBeginFailurePublishes : Obligations.TickBeginFailurePublishes := by
  unfold Obligations.TickBeginFailurePublishes
  intro s hturn hrun hlock
  constructor
  case left =>
    intro hconn
    have hphase1 := sendStart_of_not_connected (a := .poller) (s := s.turned.polling) (cmd := s.par.pollCmd)
      (data := []) hlock hconn
    refine ⟨_, step_of_tickEnabled hturn hrun hlock, ?_⟩
    rw [tickBegin_eq, turned_par, hphase1, raise_poller]
    exact ⟨rfl, rfl, hlock, rfl, rfl, hrun, rfl⟩
  case right =>
    intro hconn hcmd hwrite
    have hbit : s.turned.polling.bitFor s.par.pollCmd = s.seq := bitFor_of_ne_syncCmd (s := s.turned.polling) hcmd
    have hphase1 := sendStart_of_wErr (a := .poller) (s := s.turned.polling) (cmd := s.par.pollCmd) (data := [])
      hlock hconn (Nat.zero_le _) (by rw [hbit]; exact hwrite)
    refine ⟨_, step_of_tickEnabled hturn hrun hlock, ?_⟩
    rw [tickBegin_eq, turned_par, hphase1, raise_poller, State.afterWriting, hbit]
    exact ⟨rfl, seqAfter_of_ne_syncCmd (s := s.turned.polling) hcmd, hlock, rfl, hrun, rfl, rfl⟩

end Sys2Proof.Machine
end

section
/-! What every step leaves, R23 to R32 and R249: each register of the engine with the steps that write it. The cases are
those of `StepShape` and `ExecShape`. -/

namespace Sys2Proof.Machine

/-! ### Configuration, parameters, CONNECTED -/

theorem tickBegin_keeps (s : State) :
    (tickBegin s).cfg = s.cfg ∧ (tickBegin s).connected = s.connected ∧ (tickBegin s).pollRun = s.pollRun := by
  simp [tickBegin, sendStart_keeps]

theorem tickEnd_keeps (s : State) :
    (tickEnd s).cfg = s.cfg ∧ (tickEnd s).connected = s.connected ∧ (tickEnd s).pollRun = s.pollRun := by
  simp [tickEnd, sendFinish_keeps]

theorem ExecShape.keeps_cfg_connected {i : Instr} {s t : State} (h : ExecShape i s t) :
    t.cfg = s.cfg ∧ t.connected = s.connected := by
  cases h with
  | pure | holds | seqNext | seqReset | pollStart | pollStop => exact ⟨rfl, rfl⟩
  | send | sync => simp [sendStart_keeps]

/-- R30: no step writes the configuration registers. -/
theorem step_keeps_cfg {s t : State} (h : step s = .next t) : t.cfg = s.cfg := by
  cases step_shape h with
  | hostIdle | pollerIdle | illegal | presents | connection => rfl
  | operation i _ hexec => exact hexec.keeps_cfg_connected.1
  | reply => simp [sendFinish_keeps]
  | tickBegin => simp [tickBegin_keeps]
  | tickEnd => simp [tickEnd_keeps]

/-- R32: no step of the host or the poller writes `CONNECTED`. -/
theorem step_keeps_connected {s t : State} (h : step s = .next t) (hturn : ∀ b, s.nextTurn ≠ .setConnected b) :
    t.connected = s.connected := by
  cases step_shape h with
  | hostIdle | pollerIdle | illegal | presents => rfl
  | operation i _ hexec => exact hexec.keeps_cfg_connected.2
  | reply => simp [sendFinish_keeps]
  | tickBegin => simp [tickBegin_keeps]
  | tickEnd => simp [tickEnd_keeps]
  | connection b hb => exact absurd hb (hturn b)

/-- Settles O43: no step but the turn that drives it writes `CONNECTED`, and that turn is one record update. -/
theorem configurationNeverChanges : Obligations.ConfigurationNeverChanges := by
  unfold Obligations.ConfigurationNeverChanges
  intro s t h
  refine ⟨step_keeps_cfg h, step_keeps_par h, step_keeps_connected h, ?_⟩
  intro b hturn
  exact (Host.Outcome.next.inj ((step_setConnected s b hturn).symm.trans h)).symm

/-! ### The host's port, POLL_RUN -/

theorem pollerTurn_keeps_host (s : State) :
    (pollerTurn s).host = s.host ∧ (pollerTurn s).hostPending = s.hostPending ∧
      (pollerTurn s).pollRun = s.pollRun := by
  rcases pollerTurn_cases s with ⟨-, -, h⟩ | ⟨-, -, h⟩ | ⟨-, -, h⟩ <;> rw [h]
  case inl => simp [tickEnd, sendFinish_keeps, sendFinish_poller_host]
  case inr.inl => simp [tickBegin, sendStart_keeps, sendStart_poller_host]
  case inr.inr => exact ⟨rfl, rfl, rfl⟩

/-- Settles O38: the poller's turn leaves all three, whichever of its steps it is. -/
theorem pollerLeavesHostPort : Obligations.PollerLeavesHostPort := by
  unfold Obligations.PollerLeavesHostPort
  intro s hturn
  exact ⟨_, step_poller s hturn, pollerTurn_keeps_host s.turned⟩

theorem ExecShape.pollRun_cases {i : Instr} {s t : State} (h : ExecShape i s t) :
    t.pollRun = s.pollRun ∨ (i = .pollStart ∧ t.pollRun = .running) ∨ (i = .pollStop ∧ t.pollRun = .stopped) := by
  cases h with
  | pure | holds | seqNext | seqReset => exact .inl rfl
  | send | sync => left; simp [sendStart_keeps]
  | pollStart => exact .inr (.inl ⟨rfl, rfl⟩)
  | pollStop => exact .inr (.inr ⟨rfl, rfl⟩)

/-- Settles O40: of all steps only an operation writes `POLL_RUN`, and of the operations only these two. -/
theorem onlyPollOperationsChangePollRun : Obligations.OnlyPollOperationsChangePollRun := by
  unfold Obligations.OnlyPollOperationsChangePollRun
  intro s t h hchange
  cases step_shape h with
  | hostIdle | pollerIdle | illegal | presents | connection => exact absurd rfl hchange
  | reply => exact absurd (by simp [sendFinish_keeps]) hchange
  | tickBegin => exact absurd (by simp [tickBegin_keeps]) hchange
  | tickEnd => exact absurd (by simp [tickEnd_keeps]) hchange
  | operation i hruns hexec =>
    rcases hexec.pollRun_cases with hsame | ⟨rfl, hrun⟩ | ⟨rfl, hrun⟩
    · exact absurd hsame hchange
    · exact .inl ⟨hruns, hrun⟩
    · exact .inr ⟨hruns, hrun⟩

/-! ### SEQ -/

/-- R164: an operation that holds uses up the turn and nothing else. -/
theorem eq_turned_of_runs_held {s t : State} {i : Instr} (hruns : s.Runs i) (hheld : exec i s.turned = .next s.turned)
    (h : step s = .next t) : t = s.turned :=
  Host.Outcome.next.inj (h.symm.trans ((step_of_runs hruns).trans hheld))

/-- Settles O41: a step that changes `SEQ` does not leave the sequence alone, and with the lock held it would have. -/
theorem onlySequenceStepsChangeSeq : Obligations.OnlySequenceStepsChangeSeq := by
  unfold Obligations.OnlySequenceStepsChangeSeq
  intro s t h hchange
  have hfree {i : Instr} (hruns : s.Runs i) (hheld : s.lock ≠ .free → exec i s.turned = .next s.turned) :
      s.lock = .free := by
    by_contra hlock
    exact hchange (by rw [eq_turned_of_runs_held hruns (hheld hlock) h, turned_seq])
  by_cases hnext : s.Runs .seqNext
  case pos => exact ⟨hfree hnext (exec_seqNext_of_lock_ne_free (s := s.turned)), .inl hnext⟩
  by_cases hreset : s.Runs .seqReset
  case pos => exact ⟨hfree hreset (exec_seqReset_of_lock_ne_free (s := s.turned)), .inr (.inl hreset)⟩
  cases hstart : s.startsCommand with
  | none => exact absurd (step_seq_of_leavesSequence ⟨hstart, hnext, hreset⟩ h) hchange
  | some c =>
    obtain ⟨hlock, -⟩ := startsCommand_cases hstart
    exact ⟨hlock, .inr (.inr ⟨c, rfl⟩)⟩

/-! ### LOCK and XPH -/

/-- R179, R180: with the lock free, phase 1 leaves `LOCK` and `XPH`, or it has a connection and takes both. -/
theorem sendStart_lock_xph (a : Agent) (cmd : Byte) (data : List Byte) {s : State} (hlock : s.lock = .free) :
    ((sendStart a cmd data s).1.lock = s.lock ∧ (sendStart a cmd data s).1.xph = s.xph) ∨
      (s.connected = true ∧ (sendStart a cmd data s).1.lock = Lock.ofAgent a ∧
        (sendStart a cmd data s).1.xph = .awaitReply) := by
  rcases sendStart_lock a cmd data s with ⟨_, hfree, hxph, _⟩ | ⟨_, hconn, _, hheld, hxph, _⟩
  · exact .inl ⟨hfree.trans hlock.symm, hxph⟩
  · exact .inr ⟨hconn, hheld, hxph⟩

/-- R24: an operation of the host leaves `LOCK` and `XPH`, unless the lock is free and it is a `SEND` with the transport
open that takes them. -/
theorem ExecShape.lock_xph_cases {i : Instr} {s t : State} (h : ExecShape i s t) :
    (t.lock = s.lock ∧ t.xph = s.xph) ∨
      (s.lock = .free ∧ s.connected = true ∧ t.lock = .host ∧ t.xph = .awaitReply ∧
        ((∃ cmd data, i = .send cmd data) ∨ ∃ data, i = .sync data)) := by
  cases h with
  | pure | holds | seqNext | seqReset | pollStart | pollStop => exact .inl ⟨rfl, rfl⟩
  | send cmd data hlock =>
    exact (sendStart_lock_xph .host cmd data hlock).imp_right
      fun ⟨hconn, hheld, hxph⟩ => ⟨hlock, hconn, hheld, hxph, .inl ⟨cmd, data, rfl⟩⟩
  | sync data hlock =>
    exact (sendStart_lock_xph .host s.par.syncCmd data hlock).imp_right
      fun ⟨hconn, hheld, hxph⟩ => ⟨hlock, hconn, hheld, hxph, .inr ⟨data, rfl⟩⟩

theorem tickBegin_lock_xph {s : State} (hlock : s.lock = .free) :
    ((tickBegin s).lock = s.lock ∧ (tickBegin s).xph = s.xph) ∨
      (s.connected = true ∧ (tickBegin s).lock = .poller ∧ (tickBegin s).xph = .awaitReply) := by
  simpa [tickBegin, Lock.ofAgent] using
    sendStart_lock_xph .poller s.par.pollCmd [] (s := s.setOpnd .poller (pollOpnd s.par)) (by simpa using hlock)

theorem tickEnd_lock_xph (s : State) : (tickEnd s).lock = .free ∧ (tickEnd s).xph = .idle := by
  simp [tickEnd, sendFinish_over]

/-- Settles O42: the two phases of an exchange are all that writes `LOCK` and `XPH`. -/
theorem onlyExchangesChangeLock : Obligations.OnlyExchangesChangeLock := by
  unfold Obligations.OnlyExchangesChangeLock
  intro s t h hchange
  have hkeeps {P : Prop} (hlock : t.lock = s.lock) (hxph : t.xph = s.xph) : P :=
    absurd hchange (by simp [hlock, hxph])
  cases step_shape h with
  | hostIdle | pollerIdle | illegal | presents | connection => exact hkeeps rfl rfl
  | reply hturn hlock hxph =>
    obtain ⟨hfree, hidle, -⟩ := sendFinish_over .host s.turned
    exact .inr ⟨hxph, hfree, hidle, .inl ⟨hturn, hlock⟩⟩
  | tickEnd hturn hlock hxph =>
    obtain ⟨hfree, hidle⟩ := tickEnd_lock_xph s.turned
    exact .inr ⟨hxph, hfree, hidle, .inr ⟨hturn, hlock⟩⟩
  | tickBegin hturn hrun hlock =>
    rcases tickBegin_lock_xph (s := s.turned) hlock with ⟨hl, hx⟩ | ⟨hconn, hl, hx⟩
    · exact hkeeps hl hx
    · exact .inl ⟨hlock, ⟨_, startsCommand_of_tickBegin hturn hrun hlock hconn⟩, hx, .inr ⟨hturn, hl⟩⟩
  | operation i hruns hexec =>
    rcases hexec.lock_xph_cases with ⟨hl, hx⟩ | ⟨hlock, hconn, hl, hx, hsend⟩
    · exact hkeeps hl hx
    · have hstart : ∃ c, s.startsCommand = some c := by
        rcases hsend with ⟨cmd, data, rfl⟩ | ⟨data, rfl⟩
        · exact ⟨_, startsCommand_of_runs_send hlock hconn hruns⟩
        · exact ⟨_, startsCommand_of_runs_sync hlock hconn hruns⟩
      obtain ⟨hturn, -⟩ := hruns
      exact .inl ⟨hlock, hstart, hx, .inl ⟨hturn, hl⟩⟩

/-! ### A stopped poller -/

/-- A `TRead` of the poller, in the words of `StoppedPollerWritesNothing`. -/
def Call.isPollerRead : Call → Bool
  | .read .poller _ => true
  | _ => false

/-- The `TRead`s the poller still owes: one while its exchange is in progress. -/
def State.readsOwed (s : State) : Nat := if s.lock = .poller then 1 else 0

/-- Going from `s` to `t` the poller made no `TWrite`, and no `TRead` it did not owe (R249). -/
def QuietPoller (s t : State) : Prop :=
  ∃ new, t.calls = s.calls ++ new ∧ (∀ c ∈ new, ∀ bytes ans, c ≠ .write .poller bytes ans) ∧
    (new.filter Call.isPollerRead).length + t.readsOwed ≤ s.readsOwed

theorem QuietPoller.of_keeps {s t : State} (hcalls : t.calls = s.calls) (hlock : t.lock = s.lock) : QuietPoller s t :=
  ⟨[], by simp [hcalls], nofun, by simp [State.readsOwed, hlock]⟩

theorem QuietPoller.refl (s : State) : QuietPoller s s := .of_keeps rfl rfl

theorem QuietPoller.trans {s t u : State} (h : QuietPoller s t) (h' : QuietPoller t u) : QuietPoller s u := by
  obtain ⟨new, hcalls, hwrites, hreads⟩ := h
  obtain ⟨new', hcalls', hwrites', hreads'⟩ := h'
  refine ⟨new ++ new', by rw [hcalls', hcalls, List.append_assoc], ?_, ?_⟩
  · intro c hc
    exact (List.mem_append.mp hc).elim (hwrites c) (hwrites' c)
  · rw [List.filter_append, List.length_append]
    omega

/-- Phase 1 of the host neither calls for the poller nor gives it the lock. -/
theorem QuietPoller.sendStart_host (cmd : Byte) (data : List Byte) {s : State} (hlock : s.lock = .free) :
    QuietPoller s (sendStart .host cmd data s).1 := by
  have howed : (sendStart .host cmd data s).1.readsOwed = 0 := by
    rcases sendStart_lock_xph .host cmd data hlock with ⟨hl, -⟩ | ⟨-, hl, -⟩ <;>
      simp [State.readsOwed, hl, hlock, Lock.ofAgent]
  rcases sendStart_calls .host cmd data s with hcalls | ⟨ans, hcalls⟩
  · exact ⟨[], by simp [hcalls], nofun, by simp [howed]⟩
  · exact ⟨_, hcalls, by simp, by simp [howed, Call.isPollerRead]⟩

theorem QuietPoller.of_execShape {i : Instr} {s t : State} (h : ExecShape i s t) : QuietPoller s t := by
  cases h with
  | pure | holds | seqNext | seqReset | pollStart | pollStop => exact .of_keeps rfl rfl
  | send cmd data hlock => exact .sendStart_host cmd data hlock
  | sync data hlock => exact .sendStart_host _ data hlock

/-- R249: with `STOPPED` no tick begins; a tick-end makes the one `TRead` owed. -/
theorem QuietPoller.of_step {s t : State} (hstopped : s.pollRun = .stopped) (h : step s = .next t) :
    QuietPoller s t := by
  cases step_shape h with
  | hostIdle | pollerIdle | illegal | presents | connection => exact .of_keeps rfl rfl
  | operation i _ hexec => exact (QuietPoller.of_keeps rfl rfl : QuietPoller s s.turned).trans (.of_execShape hexec)
  | tickBegin _ hrun => exact absurd (hrun.symm.trans hstopped) nofun
  | reply _ hlock =>
    obtain ⟨hfree, -, -, -, -, hcalls⟩ := sendFinish_over .host s.turned
    exact ⟨_, hcalls, by simp, by simp [State.readsOwed, hfree, Call.isPollerRead]⟩
  | tickEnd _ hlock =>
    obtain ⟨-, -, -, -, -, hcalls⟩ := sendFinish_over .poller s.turned
    refine ⟨_, hcalls, by simp, ?_⟩
    simpa [State.readsOwed, tickEnd_lock_xph, hlock] using List.length_filter_le Call.isPollerRead [_]

/-- Settles O39: along the run the poller pays what it owes at the start, which is one `TRead` at most. -/
theorem stoppedPollerWritesNothing : Obligations.StoppedPollerWritesNothing := by
  unfold Obligations.StoppedPollerWritesNothing
  intro s u hrun
  have hquiet : QuietPoller s u := by
    induction hrun with
    | here s => exact .refl s
    | more hstopped hstep _ ih => exact (QuietPoller.of_step hstopped hstep).trans ih
  obtain ⟨new, hcalls, hwrites, hreads⟩ := hquiet
  have howed : s.readsOwed ≤ 1 := by
    unfold State.readsOwed
    split <;> decide
  refine ⟨new, hcalls, hwrites, ?_⟩
  have hle : (new.filter Call.isPollerRead).length ≤ 1 := by omega
  exact hle

/-! ### Quiescence -/

/-- Settles O59: the host has nothing presented and nothing to present, the poller no step enabled. -/
theorem quiescentStateIsStill : Obligations.QuiescentStateIsStill := by
  unfold Obligations.QuiescentStateIsStill
  intro s hquiet hturn
  obtain ⟨hpending, hops, hrun, hlock, -⟩ := hquiet
  rcases hturn with hturn | hturn
  case inl => simp [step_host s hturn, hostTurn, State.hostAwaits, hpending, hops, hlock]
  case inr => simp [step_poller s hturn, pollerTurn, State.pollerAwaits, State.tickEnabled, hrun, hlock]

end Sys2Proof.Machine
end

section
/-! The invariant of the machine, R24 to R67: reset has it, every step keeps it, and from a state that has it every step
answers. One part after the other: phase 1, phase 2, the operations, the step. -/

namespace Sys2Proof.Machine

/-- Presenting writes the host's operand registers, the flag and the queue, and nothing else (R26). -/
theorem turned_popHostOp_present (r : OperandRegs) (s : State) :
    s.turned.popHostOp.present r =
      { s with
        host := { s.host with opnd := r }, hostPending := true,
        inp := { s.turned.inp with hostOps := s.turned.inp.hostOps.tail } } := rfl

/-! ### The lock and the exchange (LockInv) -/

theorem xph_idle_of_lock_free {s : State} (h : s.LockInv) (hlock : s.lock = .free) : s.xph = .idle := by
  obtain ⟨hiff, -⟩ := h
  exact hiff.mp hlock

/-- R188: between exchanges nothing is held. -/
theorem lockInv_of_over {s : State} (hlock : s.lock = .free) (hxph : s.xph = .idle) (hbit : s.xBit = none) :
    s.LockInv :=
  ⟨iff_of_true hlock hxph, iff_of_true hbit hxph⟩

/-- R180: during an exchange everything is. -/
theorem lockInv_of_awaits {s : State} {a : Agent} {b : BitVec 1} (hlock : s.lock = Lock.ofAgent a)
    (hxph : s.xph = .awaitReply) (hbit : s.xBit = some b) : s.LockInv := by
  have hidle : ¬ s.xph = .idle := by simp [hxph]
  have hheld : ¬ s.lock = .free := by cases a <;> simp [hlock, Lock.ofAgent]
  exact ⟨iff_of_false hheld hidle, iff_of_false (by simp [hbit]) hidle⟩

theorem sendStart_lockInv (a : Agent) (cmd : Byte) (data : List Byte) {s : State} (h : s.LockInv)
    (hlock : s.lock = .free) : (sendStart a cmd data s).1.LockInv := by
  have hidle := xph_idle_of_lock_free h hlock
  rcases sendStart_lock a cmd data s with ⟨_, hfree, hxph, hbit⟩ | ⟨_, _, _, hheld, hxph, hbit, _⟩
  · obtain ⟨-, hnone⟩ := h
    exact lockInv_of_over hfree (hxph.trans hidle) (hbit.trans (hnone.mpr hidle))
  · exact lockInv_of_awaits hheld hxph hbit

theorem sendFinish_lockInv (a : Agent) (s : State) : (sendFinish a s).1.LockInv := by
  obtain ⟨hlock, hxph, hbit, -⟩ := sendFinish_over a s
  exact lockInv_of_over hlock hxph hbit

theorem ExecShape.keeps_lockInv {i : Instr} {s t : State} (h : ExecShape i s t) (hs : s.LockInv) : t.LockInv := by
  cases h with
  | pure | holds | seqNext | seqReset | pollStart | pollStop => exact hs
  | send cmd data hlock => exact sendStart_lockInv .host cmd data hs hlock
  | sync data hlock => exact sendStart_lockInv .host _ data hs hlock

theorem tickBegin_lockInv {s : State} (h : s.LockInv) (hlock : s.lock = .free) : (tickBegin s).LockInv :=
  sendStart_lockInv .poller s.par.pollCmd [] (s := s.polling) h hlock

theorem step_keeps_lockInv {s t : State} (hs : s.LockInv) (h : step s = .next t) : t.LockInv := by
  cases step_shape h with
  | hostIdle | pollerIdle | illegal | connection => exact hs
  | presents =>
    rw [turned_popHostOp_present]
    exact hs
  | operation i _ hexec => exact hexec.keeps_lockInv hs
  | reply => exact sendFinish_lockInv .host s.turned
  | tickBegin _ _ hlock => exact tickBegin_lockInv (s := s.turned) hs hlock
  | tickEnd => exact sendFinish_lockInv .poller s.turned

/-- Settles O53: only the two phases of an exchange write these fields, and each leaves them in step. -/
theorem lockInvariantIsKept : Obligations.LockInvariantIsKept := by
  unfold Obligations.LockInvariantIsKept
  intro s t hs h
  exact step_keeps_lockInv hs h

/-! ### The transport calls (SerialInv) -/

theorem owner_of_lock_free {s : State} (h : s.lock = .free) : s.owner = none := by
  rw [State.owner, h]

theorem owner_of_lock_ofAgent {s : State} {a : Agent} (h : s.lock = Lock.ofAgent a) : s.owner = some a := by
  rw [State.owner, h]
  cases a <;> rfl

/-- A serialised history goes on from the lock holder (R67). -/
theorem serialInv_of_append {s t : State} {new : List Call} (h : s.SerialInv) (hcalls : t.calls = s.calls ++ new)
    (hnew : serialFrom s.owner new = some t.owner) : t.SerialInv := by
  rw [State.SerialInv, hcalls, serialFrom_append _ _ _ _ h, hnew]

/-- R67, R179: phase 1 with the lock free calls nothing, or writes once; only an answered write leaves the lock held. -/
theorem sendStart_serialInv (a : Agent) (cmd : Byte) (data : List Byte) {s : State} (h : s.SerialInv)
    (hlock : s.lock = .free) : (sendStart a cmd data s).1.SerialInv := by
  have howner := owner_of_lock_free hlock
  rcases sendStart_cases a cmd data s with ⟨_, e⟩ | ⟨_, _, e⟩ | ⟨_, _, hw, e⟩ | ⟨_, _, ⟨n, hw⟩, e⟩ <;> rw [e]
  case inl | inr.inl =>
    refine serialInv_of_append h (new := []) (by simp [State.raise, State.complete, State.release]) ?_
    rw [howner, owner_of_lock_free (by simp [State.raise, State.complete, State.release])]
    rfl
  case inr.inr.inl =>
    refine serialInv_of_append h (new := [.write a (s.sentFrame cmd data) .wErr]) ?_ ?_
    · rw [← hw]
      cases a <;> rfl
    · rw [howner, owner_of_lock_free (by simp [State.raise, State.complete, State.release])]
      rfl
  case inr.inr.inr =>
    refine serialInv_of_append h (new := [.write a (s.sentFrame cmd data) (.wOk n)]) ?_ ?_
    · rw [← hw]
      cases a <;> rfl
    · rw [howner, owner_of_lock_ofAgent (a := a) (by simp [State.tWrite])]
      rfl

/-- R67: phase 2 reads for the agent that holds the lock. -/
theorem sendFinish_serialInv {a : Agent} {s : State} (h : s.SerialInv) (hlock : s.lock = Lock.ofAgent a) :
    (sendFinish a s).1.SerialInv := by
  obtain ⟨hfree, -, -, -, -, hcalls⟩ := sendFinish_over a s
  refine serialInv_of_append h hcalls ?_
  rw [owner_of_lock_ofAgent hlock, owner_of_lock_free hfree]
  exact if_pos rfl

theorem ExecShape.keeps_serialInv {i : Instr} {s t : State} (h : ExecShape i s t) (hs : s.SerialInv) :
    t.SerialInv := by
  cases h with
  | pure | holds | seqNext | seqReset | pollStart | pollStop => exact hs
  | send cmd data hlock => exact sendStart_serialInv .host cmd data hs hlock
  | sync data hlock => exact sendStart_serialInv .host _ data hs hlock

theorem tickBegin_serialInv {s : State} (h : s.SerialInv) (hlock : s.lock = .free) : (tickBegin s).SerialInv :=
  sendStart_serialInv .poller s.par.pollCmd [] (s := s.polling) h hlock

theorem step_keeps_serialInv {s t : State} (hs : s.SerialInv) (h : step s = .next t) : t.SerialInv := by
  cases step_shape h with
  | hostIdle | pollerIdle | illegal | connection => exact hs
  | presents =>
    rw [turned_popHostOp_present]
    exact hs
  | operation i _ hexec => exact hexec.keeps_serialInv hs
  | reply _ hlock => exact sendFinish_serialInv (s := s.turned) hs hlock
  | tickBegin _ _ hlock => exact tickBegin_serialInv (s := s.turned) hs hlock
  | tickEnd _ hlock => exact sendFinish_serialInv (a := .poller) (s := s.turned) hs hlock

/-- Settles O54: a write comes with the lock free, a read with the lock held by its agent. -/
theorem transportCallsStaySerialised : Obligations.TransportCallsStaySerialised := by
  unfold Obligations.TransportCallsStaySerialised
  intro s t hs h
  exact step_keeps_serialInv hs h

/-! ### The host's port (PortInv) -/

theorem portInv_of_not_pending {s : State} (h : s.hostPending = false) : s.PortInv := fun _ => h

theorem portInv_of_lock_ne_host {s : State} (h : s.lock ≠ .host) : s.PortInv := fun hlock => absurd hlock h

theorem sendStart_host_hostPending (cmd : Byte) (data : List Byte) (s : State) :
    (sendStart .host cmd data s).1.hostPending = false := by
  rcases sendStart_cases .host cmd data s with ⟨_, e⟩ | ⟨_, _, e⟩ | ⟨_, _, _, e⟩ | ⟨_, _, _, e⟩ <;> rw [e] <;> rfl

theorem ExecShape.keeps_portInv {i : Instr} {s t : State} (h : ExecShape i s t) (hs : s.PortInv) : t.PortInv := by
  cases h with
  | holds => exact hs
  | pure | seqNext | seqReset | pollStart | pollStop => exact portInv_of_not_pending rfl
  | send | sync => exact portInv_of_not_pending (sendStart_host_hostPending _ _ _)

/-- With the lock held by the host, the host awaits its reply (R24). -/
theorem lock_ne_host_of_not_awaits {s : State} (h : s.LockInv) (hawaits : s.hostAwaits = false) : s.lock ≠ .host := by
  obtain ⟨hiff, -⟩ := h
  intro hlock
  cases hxph : s.xph with
  | idle => exact absurd (hiff.mpr hxph) (by simp [hlock])
  | awaitReply => simp [State.hostAwaits, hlock, hxph] at hawaits

theorem step_keeps_portInv {s t : State} (hlockInv : s.LockInv) (hs : s.PortInv) (h : step s = .next t) :
    t.PortInv := by
  cases step_shape h with
  | hostIdle | pollerIdle | connection => exact hs
  | illegal => exact portInv_of_not_pending rfl
  | operation i _ hexec => exact hexec.keeps_portInv hs
  | presents _ _ _ hawaits =>
    rw [turned_popHostOp_present]
    exact portInv_of_lock_ne_host (lock_ne_host_of_not_awaits hlockInv hawaits)
  | reply => exact portInv_of_lock_ne_host (by simp [sendFinish_over])
  | tickEnd => exact portInv_of_lock_ne_host (by simp [tickEnd_lock_xph])
  | tickBegin _ _ hlock =>
    rcases tickBegin_lock_xph (s := s.turned) hlock with ⟨hl, -⟩ | ⟨-, hl, -⟩
    · exact portInv_of_lock_ne_host (by simp [hl, hlock])
    · exact portInv_of_lock_ne_host (by simp [hl])

/-! ### The frame in TXBUF (FrameInv) -/

/-- R34, R187: between exchanges neither buffer holds a value. -/
theorem frameInv_of_over {s : State} (hxph : s.xph = .idle) (htx : s.txBuf = []) (hrx : s.rxBuf = []) : s.FrameInv :=
  ⟨hrx, fun _ => htx, fun hawaits => absurd (hxph.symm.trans hawaits) nofun⟩

/-- R34, R170: phase 1 empties `TXBUF` again when it fails, and leaves its frame there when it does not. -/
theorem sendStart_frameInv (a : Agent) (cmd : Byte) (data : List Byte) {s : State} (hlockInv : s.LockInv)
    (h : s.FrameInv) (hlock : s.lock = .free) : (sendStart a cmd data s).1.FrameInv := by
  have hidle := xph_idle_of_lock_free hlockInv hlock
  obtain ⟨hrx, htx, -⟩ := h
  have htx := htx hidle
  rcases sendStart_cases a cmd data s with ⟨_, e⟩ | ⟨_, _, e⟩ | ⟨_, _, _, e⟩ | ⟨_, hlen, _, e⟩ <;> rw [e]
  case inl | inr.inl =>
    apply frameInv_of_over <;> simpa [State.raise, State.complete, State.release]
  case inr.inr.inl =>
    apply frameInv_of_over <;> simp [State.raise, State.complete, State.release, State.tWrite, hidle, hrx]
  case inr.inr.inr =>
    refine ⟨by simpa [State.tWrite], by simp, fun _ => ⟨s.sentBit cmd, cmd, data, by simp, hlen, ?_⟩⟩
    simp [State.tWrite, sentFrame_eq_commandWire]

theorem sendFinish_frameInv (a : Agent) (s : State) : (sendFinish a s).1.FrameInv := by
  obtain ⟨-, hxph, -, htx, hrx, -⟩ := sendFinish_over a s
  exact frameInv_of_over hxph htx hrx

theorem ExecShape.keeps_frameInv {i : Instr} {s t : State} (h : ExecShape i s t) (hlockInv : s.LockInv)
    (hs : s.FrameInv) : t.FrameInv := by
  cases h with
  | pure | holds | seqNext | seqReset | pollStart | pollStop => exact hs
  | send cmd data hlock => exact sendStart_frameInv .host cmd data hlockInv hs hlock
  | sync data hlock => exact sendStart_frameInv .host _ data hlockInv hs hlock

theorem tickBegin_frameInv {s : State} (hlockInv : s.LockInv) (h : s.FrameInv) (hlock : s.lock = .free) :
    (tickBegin s).FrameInv :=
  sendStart_frameInv .poller s.par.pollCmd [] (s := s.polling) hlockInv h hlock

theorem step_keeps_frameInv {s t : State} (hlockInv : s.LockInv) (hs : s.FrameInv) (h : step s = .next t) :
    t.FrameInv := by
  cases step_shape h with
  | hostIdle | pollerIdle | illegal | connection => exact hs
  | presents =>
    rw [turned_popHostOp_present]
    exact hs
  | operation i _ hexec => exact hexec.keeps_frameInv hlockInv hs
  | reply => exact sendFinish_frameInv .host s.turned
  | tickBegin _ _ hlock => exact tickBegin_frameInv (s := s.turned) hlockInv hs hlock
  | tickEnd => exact sendFinish_frameInv .poller s.turned

/-! ### The buffers (BufferInv) -/

/-- Phase 1 leaves what is presented and `RXBUF`, and writes no more into `TXBUF` than a frame (R86). -/
theorem sendStart_buffers (a : Agent) (cmd : Byte) (data : List Byte) (s : State) :
    (sendStart a cmd data s).1.host.opnd = s.host.opnd ∧ (sendStart a cmd data s).1.poller.opnd = s.poller.opnd ∧
      (sendStart a cmd data s).1.rxBuf = s.rxBuf ∧ (sendStart a cmd data s).1.inp.hostOps = s.inp.hostOps ∧
      (Memory.wf s.txBuf = true → Memory.wf (sendStart a cmd data s).1.txBuf = true) := by
  rcases sendStart_cases a cmd data s with ⟨_, e⟩ | ⟨_, _, e⟩ | ⟨_, _, _, e⟩ | ⟨_, hlen, _, e⟩ <;> rw [e]
  case inl | inr.inl => cases a <;> simp [State.raise, State.complete, State.release]
  case inr.inr.inl =>
    cases a <;> simp [State.raise, State.complete, State.release, State.tWrite, memory_wf_nil]
  case inr.inr.inr =>
    have hwf : Memory.wf (s.sentFrame cmd data) = true := commandFrame_wf _ _ _ hlen
    cases a <;> simp [State.tWrite, hwf]

theorem sendStart_bufferInv (a : Agent) (cmd : Byte) (data : List Byte) {s : State} (h : s.BufferInv) :
    (sendStart a cmd data s).1.BufferInv := by
  obtain ⟨hhost, hpoller, htx, hrx, hops⟩ := h
  obtain ⟨ehost, epoller, erx, eops, htx'⟩ := sendStart_buffers a cmd data s
  exact ⟨ehost ▸ hhost, epoller ▸ hpoller, htx' htx, erx ▸ hrx, eops ▸ hops⟩

theorem sendFinish_bufferInv (a : Agent) {s : State} (h : s.BufferInv) : (sendFinish a s).1.BufferInv := by
  obtain ⟨hhost, hpoller, -, -, hops⟩ := h
  obtain ⟨r, -, e⟩ := sendFinish_completes a s
  have hops' : ∀ r ∈ s.inp.afterRead.hostOps, fitsBuffer r.a = true := (afterRead_hostOps s.inp).symm ▸ hops
  rw [e]
  cases a
  all_goals exact ⟨hhost, hpoller, memory_wf_nil, memory_wf_nil, hops'⟩

theorem ExecShape.keeps_bufferInv {i : Instr} {s t : State} (h : ExecShape i s t) (hs : s.BufferInv) :
    t.BufferInv := by
  cases h with
  | pure | holds | seqNext | seqReset | pollStart | pollStop => exact hs
  | send cmd data => exact sendStart_bufferInv .host cmd data hs
  | sync data => exact sendStart_bufferInv .host _ data hs

theorem turned_bufferInv {s : State} (h : s.BufferInv) : s.turned.BufferInv := by
  obtain ⟨hhost, hpoller, htx, hrx, hops⟩ := h
  exact ⟨hhost, hpoller, htx, hrx, (turned_hostOps s).symm ▸ hops⟩

/-- Presenting moves an operand string of the queue onto the port (R26). -/
theorem present_bufferInv {s : State} {r : OperandRegs} {rest : List OperandRegs} (h : s.BufferInv)
    (hcons : s.inp.hostOps = r :: rest) : (s.popHostOp.present r).BufferInv := by
  obtain ⟨-, hpoller, htx, hrx, hops⟩ := h
  exact ⟨hops r (by simp [hcons]), hpoller, htx, hrx, fun x hx => hops x (List.mem_of_mem_tail hx)⟩

theorem polling_bufferInv {s : State} (h : s.BufferInv) : s.polling.BufferInv := by
  obtain ⟨hhost, -, htx, hrx, hops⟩ := h
  exact ⟨hhost, memory_wf_nil, htx, hrx, hops⟩

theorem step_keeps_bufferInv {s t : State} (hs : s.BufferInv) (h : step s = .next t) : t.BufferInv := by
  have hs := turned_bufferInv hs
  cases step_shape h with
  | hostIdle | pollerIdle | illegal | connection => exact hs
  | presents r rest _ _ _ hcons => exact present_bufferInv hs ((turned_hostOps s).trans hcons)
  | operation i _ hexec => exact hexec.keeps_bufferInv hs
  | reply => exact sendFinish_bufferInv .host hs
  | tickBegin => exact sendStart_bufferInv .poller s.par.pollCmd [] (polling_bufferInv hs)
  | tickEnd => exact sendFinish_bufferInv .poller hs

end Sys2Proof.Machine
end

section
/-! The pure operations, R68 and R199: each completes with results that are a function of the operation and the
parameters, and every result register group an operation writes is consistent, R27 and R28. -/

namespace Sys2Proof.Machine

/-! ### The results of a pure operation -/

/-- What is written for an answer: the record, or `ERR` alone (R199, R270). -/
def Results.ofAnswer : Except ErrKind Results → Results
  | .error e => Results.error e
  | .ok r => r

theorem completeWith_eq_hostDone (r : Except ErrKind Results) (s : State) :
    s.completeWith r = s.hostDone (Results.ofAnswer r) := by
  cases r <;> rfl

/-- R68: what a pure operation answers under the parameters `p`. The last row is for the operations that are not pure,
about which `exec_of_isPure` says nothing. -/
def pureAnswer (p : Params) : Instr → Except ErrKind Results
  | .crc16 a => .ok (crcResults a)
  | .encode seqAddr cmd data => (encodeFrame seqAddr cmd data).map encodeResults
  | .decode raw => (decodeFrame raw).map decodeResults
  | .decIdent a => decodeIdent p.units a
  | .decChan ver a => decodeChannels p.layout ver a
  | .decSetup a => decodeSetup p.units a
  | _ => .ok Results.success

theorem exec_of_isPure {i : Instr} (h : isPure i = true) (s : State) :
    exec i s = .next (s.hostDone (Results.ofAnswer (pureAnswer s.par i))) := by
  cases i with
  | crc16 a => rfl
  | encode seqAddr cmd data =>
    cases hframe : encodeFrame seqAddr cmd data with
    | error e => rw [exec_encode_of_error hframe, pureAnswer, hframe]; rfl
    | ok frame => rw [exec_encode_of_ok hframe, pureAnswer, hframe]; rfl
  | decode raw =>
    cases hframe : decodeFrame raw with
    | error e => rw [exec_decode_of_error hframe, pureAnswer, hframe]; rfl
    | ok f => rw [exec_decode_of_ok hframe, pureAnswer, hframe]; rfl
  | decIdent p => rw [exec_decIdent, completeWith_eq_hostDone, pureAnswer]
  | decChan ver p => rw [exec_decChan, completeWith_eq_hostDone, pureAnswer]
  | decSetup p => rw [exec_decSetup, completeWith_eq_hostDone, pureAnswer]
  | seqNext | seqReset | send | sync | pollStart | pollStop => cases h

/-- Settles O57: equal parameters are equal results. -/
theorem pureOperationsIgnoreEngineState : Obligations.PureOperationsIgnoreEngineState := by
  unfold Obligations.PureOperationsIgnoreEngineState
  intro i s s' hpure hpar
  exact ⟨_, exec_of_isPure hpure s, hpar ▸ exec_of_isPure hpure s'⟩

/-! ### Consistent results -/

/-- R28: every per-channel array is indexed by the channel count. -/
def Results.ArraysWf (r : Results) : Prop :=
  arrayWf r.tN r.tVb ∧ arrayWf r.tN r.tExt ∧ arrayWf r.tN r.tCc ∧ arrayWf r.tN r.tFull ∧ arrayWf r.tN r.tVal ∧
    arrayWf r.tN r.tSec

theorem arrayWf_nil {α : Type} (n : Option Byte) : arrayWf n ([] : List α) := .inl rfl

theorem arrayWf_of_length {α : Type} {n : Byte} {xs : List α} (h : xs.length = n.toNat) : arrayWf (some n) xs :=
  .inr ⟨n, rfl, h⟩

theorem Results.wf_of_buffer {r : Results} (herr : r.err = some 0)
    (hlen : r.rLen = some (BitVec.ofNat 11 r.rBuf.length)) (hle : r.rBuf.length ≤ 1024) (harrays : r.ArraysWf) :
    r.Wf := by
  obtain ⟨hvb, hext, hcc, hfull, hval, hsec⟩ := harrays
  refine ⟨?_, hvb, hext, hcc, hfull, hval, hsec, by simp [herr], by simp [herr]⟩
  rw [hlen]
  refine ⟨?_, hle⟩
  rw [BitVec.toNat_ofNat, Nat.mod_eq_of_lt (by omega)]

theorem Results.wf_of_no_buffer {r : Results} (herr : r.err = some 0) (hlen : r.rLen = none) (hbuf : r.rBuf = [])
    (harrays : r.ArraysWf) : r.Wf := by
  obtain ⟨hvb, hext, hcc, hfull, hval, hsec⟩ := harrays
  refine ⟨?_, hvb, hext, hcc, hfull, hval, hsec, by simp [herr], by simp [herr]⟩
  rw [hlen]
  exact hbuf

theorem Results.arraysWf_of_nil {r : Results} (hvb : r.tVb = []) (hext : r.tExt = []) (hcc : r.tCc = [])
    (hfull : r.tFull = []) (hval : r.tVal = []) (hsec : r.tSec = []) : r.ArraysWf :=
  ⟨.inl hvb, .inl hext, .inl hcc, .inl hfull, .inl hval, .inl hsec⟩

/-- No result at all is consistent (R37). -/
theorem Results.blank_wf : Results.blank.Wf :=
  ⟨rfl, .inl rfl, .inl rfl, .inl rfl, .inl rfl, .inl rfl, .inl rfl, fun _ => rfl, nofun⟩

/-- R270: `ERR` alone has a value. -/
theorem Results.error_wf (e : ErrKind) : (Results.error e).Wf := by
  refine ⟨rfl, .inl rfl, .inl rfl, .inl rfl, .inl rfl, .inl rfl, .inl rfl, nofun, ?_⟩
  intro code hcode _
  obtain rfl : e.code = code := Option.some.inj hcode
  exact ⟨e, rfl, rfl⟩

theorem Results.ofAnswer_wf {r : Except ErrKind Results} (h : ∀ res, r = .ok res → res.Wf) :
    (Results.ofAnswer r).Wf := by
  cases r with
  | error e => exact Results.error_wf e
  | ok res => exact h res rfl

theorem Results.success_wf : Results.success.Wf :=
  Results.wf_of_no_buffer rfl rfl rfl (Results.arraysWf_of_nil rfl rfl rfl rfl rfl rfl)

theorem crcResults_wf (a : List Byte) : (crcResults a).Wf :=
  Results.wf_of_buffer rfl rfl (by simp [crcResults]) (Results.arraysWf_of_nil rfl rfl rfl rfl rfl rfl)

theorem encodeResults_wf {frame : List Byte} (h : frame.length ≤ 1024) : (encodeResults frame).Wf :=
  Results.wf_of_buffer rfl rfl h (Results.arraysWf_of_nil rfl rfl rfl rfl rfl rfl)

theorem decodeResults_wf {f : Frame} (h : f.payload.length ≤ 1024) : (decodeResults f).Wf :=
  Results.wf_of_buffer rfl rfl h (Results.arraysWf_of_nil rfl rfl rfl rfl rfl rfl)

/-- R192: the reply data fits `RBUF`. -/
theorem responseResults_wf {r : Response} (h : r.rawPayload.length ≤ 254) (bit : Option (BitVec 1)) :
    (responseResults r bit).Wf :=
  Results.wf_of_buffer rfl rfl (show r.rawPayload.length ≤ 1024 by omega)
    (Results.arraysWf_of_nil rfl rfl rfl rfl rfl rfl)

/-- R132, R86: a frame that was encoded fits `RBUF`. -/
theorem encodeFrame_length_le {sa cmd : Byte} {data frame : List Byte} (h : encodeFrame sa cmd data = .ok frame) :
    frame.length ≤ 1024 := by
  rw [encodeFrame_eq] at h
  split at h
  case isTrue hlen =>
    cases h
    exact (memory_wf_iff _).mp (commandFrame_wf sa cmd data hlen)
  case isFalse => cases h

theorem decodeIdent_wf {u : UnitCodes} {p : List Byte} {r : Results} (h : decodeIdent u p = .ok r) : r.Wf := by
  unfold decodeIdent at h
  split at h
  case isTrue => cases h
  case isFalse =>
    cases h
    exact Results.wf_of_no_buffer rfl rfl rfl (Results.arraysWf_of_nil rfl rfl rfl rfl rfl rfl)

/-- R213: below version 6 there are two arrays. -/
theorem legacyChannels_wf {p : List Byte} (h : 1 + (byteAt p 0).toNat ≤ p.length) :
    (legacyChannels p (byteAt p 0).toNat).Wf := by
  have hlen := slice_length p 1 _ h
  exact Results.wf_of_no_buffer rfl rfl rfl
    ⟨arrayWf_of_length hlen, arrayWf_nil _, arrayWf_nil _, arrayWf_nil _,
      arrayWf_of_length ((List.length_map _).trans hlen), arrayWf_nil _⟩

/-- R214, R215: from version 6 on there are five, each an entry per channel. -/
theorem extendedChannels_wf (layout : ChannelLayout) (p : List Byte) :
    (extendedChannels layout p (byteAt p 0).toNat).Wf := by
  have harray {α : Type} (f : Nat → α) : arrayWf (some (byteAt p 0)) ((List.range (byteAt p 0).toNat).map f) :=
    arrayWf_of_length (by simp)
  exact Results.wf_of_no_buffer rfl rfl rfl
    ⟨harray _, harray _, harray _, harray _, harray _, arrayWf_nil _⟩

theorem decodeChannels_wf {layout : ChannelLayout} {ver : Byte} {p : List Byte} {r : Results}
    (h : decodeChannels layout ver p = .ok r) : r.Wf := by
  unfold decodeChannels at h
  dsimp only at h
  split_ifs at h with hempty hver hlegacy hextended
  · cases h
    exact legacyChannels_wf (Nat.le_of_not_lt hlegacy)
  · cases h
    exact extendedChannels_wf layout p

/-- R222: the setup has an array of values and one of flags. -/
theorem decodeSetup_wf {u : UnitCodes} {p : List Byte} {r : Results} (h : decodeSetup u p = .ok r) : r.Wf := by
  unfold decodeSetup at h
  dsimp only at h
  split_ifs at h with hshort hcounted
  cases h
  exact Results.wf_of_no_buffer rfl rfl rfl
    ⟨arrayWf_of_length (slice_length p 12 _ (by omega)), arrayWf_nil _, arrayWf_nil _, arrayWf_nil _, arrayWf_nil _,
      arrayWf_of_length (slice_length p _ _ (by omega))⟩

theorem map_eq_ok_iff {α β : Type} {f : α → β} {x : Except ErrKind α} {b : β} :
    x.map f = .ok b ↔ ∃ a, x = .ok a ∧ f a = b := by
  cases x <;> simp [Except.map]

theorem pureAnswer_wf {p : Params} {i : Instr} {r : Results} (h : pureAnswer p i = .ok r) : r.Wf := by
  cases i with
  | crc16 a =>
    cases h
    exact crcResults_wf a
  | encode seqAddr cmd data =>
    obtain ⟨frame, hframe, rfl⟩ := map_eq_ok_iff.mp h
    exact encodeResults_wf (encodeFrame_length_le hframe)
  | decode raw =>
    obtain ⟨f, hf, rfl⟩ := map_eq_ok_iff.mp h
    exact decodeResults_wf ((memory_wf_iff _).mp (decodeFrame_payload_wf hf))
  | decIdent a => exact decodeIdent_wf h
  | decChan ver a => exact decodeChannels_wf h
  | decSetup a => exact decodeSetup_wf h
  | seqNext | seqReset | send | sync | pollStart | pollStop =>
    cases h
    exact Results.success_wf

/-! ### Every step keeps the results consistent (ResultInv) -/

theorem setRes_resultInv {s : State} {r : Results} (h : s.ResultInv) (hr : r.Wf) (a : Agent) :
    (s.setRes a r).ResultInv := by
  obtain ⟨hhost, hpoller⟩ := h
  cases a with
  | host => exact ⟨hr, hpoller⟩
  | poller => exact ⟨hhost, hr⟩

theorem complete_resultInv {s : State} {r : Results} (h : s.ResultInv) (hr : r.Wf) (a : Agent) :
    (s.complete a r).ResultInv := by
  obtain ⟨hhost, hpoller⟩ := setRes_resultInv h hr a
  exact ⟨by rwa [State.complete, begun_host], by rwa [State.complete, begun_poller]⟩

theorem sendStart_resultInv (a : Agent) (cmd : Byte) (data : List Byte) {s : State} (h : s.ResultInv) :
    (sendStart a cmd data s).1.ResultInv := by
  rcases sendStart_cases a cmd data s with ⟨_, e⟩ | ⟨_, _, e⟩ | ⟨_, _, _, e⟩ | ⟨_, _, _, e⟩ <;> rw [e]
  case inl => exact complete_resultInv (s := s.release) h (Results.error_wf _) a
  case inr.inl => exact complete_resultInv (s := (s.setSeq (s.seqAfter cmd)).release) h (Results.error_wf _) a
  case inr.inr.inl =>
    refine complete_resultInv ?_ (Results.error_wf _) a
    exact h
  case inr.inr.inr =>
    obtain ⟨hhost, hpoller⟩ := h
    exact ⟨by simpa [State.tWrite], by simpa [State.tWrite]⟩

theorem sendFinish_resultInv (a : Agent) {s : State} (h : s.ResultInv) : (sendFinish a s).1.ResultInv := by
  cases hreply : replyOf s.par.status s.nextRead (receivedBytes s.nextRead) with
  | error e =>
    rw [sendFinish_of_error hreply]
    exact complete_resultInv (s := s.exchangeOver a) h (Results.error_wf e) a
  | ok r =>
    rw [sendFinish_of_ok hreply]
    exact complete_resultInv (s := s.exchangeOver a) h (responseResults_wf (replyOf_rawPayload_le hreply) _) a

theorem hostDone_resultInv {s : State} {r : Results} (h : s.ResultInv) (hr : r.Wf) : (s.hostDone r).ResultInv :=
  complete_resultInv h hr .host

theorem exec_keeps_resultInv {i : Instr} {s t : State} (hs : s.ResultInv) (h : exec i s = .next t) :
    t.ResultInv := by
  by_cases hpure : isPure i = true
  case pos =>
    obtain rfl := Host.Outcome.next.inj (h.symm.trans (exec_of_isPure hpure s))
    exact hostDone_resultInv hs (Results.ofAnswer_wf fun _ => pureAnswer_wf)
  case neg =>
    obtain ⟨u, hu, hexec⟩ := exec_shape i s
    obtain rfl := Host.Outcome.next.inj (h.symm.trans hu)
    have hbit : Results.Wf { Results.blank with err := some 0, bit := some s.seq } :=
      Results.wf_of_no_buffer rfl rfl rfl (Results.arraysWf_of_nil rfl rfl rfl rfl rfl rfl)
    cases hexec with
    | pure _ hp => exact absurd hp hpure
    | holds => exact hs
    | seqNext => exact hostDone_resultInv hs hbit
    | seqReset | pollStart | pollStop => exact hostDone_resultInv hs Results.success_wf
    | send cmd data => exact sendStart_resultInv .host cmd data hs
    | sync data => exact sendStart_resultInv .host _ data hs

theorem step_keeps_resultInv {s t : State} (hs : s.ResultInv) (h : step s = .next t) : t.ResultInv := by
  cases step_shape h with
  | hostIdle | pollerIdle | presents | connection => exact hs
  | illegal => exact complete_resultInv (s := s.turned) hs (Results.error_wf _) .host
  | operation i hruns => exact exec_keeps_resultInv (s := s.turned) hs ((step_of_runs hruns).symm.trans h)
  | reply => exact sendFinish_resultInv .host (s := s.turned) hs
  | tickBegin => exact sendStart_resultInv .poller s.par.pollCmd [] (s := s.turned.polling) hs
  | tickEnd => exact sendFinish_resultInv .poller (s := s.turned) hs

/-! ### The whole invariant -/

/-- Settles O52: each part by the step's own lemma; the port and the frame lean on the lock. -/
theorem stepKeepsInvariant : Obligations.StepKeepsInvariant := by
  unfold Obligations.StepKeepsInvariant
  intro s t hs h
  obtain ⟨hpar, hlock, hport, hframe, hserial, hresult, hbuffer⟩ := hs
  exact ⟨step_keeps_par h ▸ hpar, step_keeps_lockInv hlock h, step_keeps_portInv hlock hport h,
    step_keeps_frameInv hlock hframe h, step_keeps_serialInv hserial h, step_keeps_resultInv hresult h,
    step_keeps_bufferInv hbuffer h⟩

/-- R8: the unit codes are legal whatever was supplied. -/
theorem units_wf : Config.units.wf = true := by
  unfold Config.units
  split
  case isTrue h => exact h
  case isFalse => rfl

/-- R7, R8: the parameters after reset. -/
theorem params_wf : Config.params.wf = true := by
  simp only [Params.wf, Bool.and_eq_true]
  exact ⟨⟨by decide, units_wf⟩, by decide⟩

/-- Settles O51: after reset nothing is held, presented, called or written. -/
theorem resetHasInvariant : Obligations.ResetHasInvariant := by
  unfold Obligations.ResetHasInvariant
  exact ⟨params_wf, lockInv_of_over rfl rfl rfl, portInv_of_not_pending rfl, frameInv_of_over rfl rfl rfl, rfl,
    ⟨Results.blank_wf, Results.blank_wf⟩, rfl, rfl, rfl, rfl, nofun⟩

/-! ### Nothing stops the machine -/

/-- R101: a string that fits its buffer is never refused. -/
theorem decode_ne_operandTooLong {syncCmd : Byte} {r : OperandRegs} (h : fitsBuffer r.a = true) :
    decode syncCmd r ≠ .error .operandTooLong := by
  have fits (i : Instr) : withBuffer r.a i = .ok i := if_pos h
  unfold decode
  split <;> simp [fits]

theorem hostTurn_answers {s : State} (h : s.BufferInv) : ∃ t, hostTurn s = .next t := by
  obtain ⟨hfits, -⟩ := h
  rcases hostTurn_cases s with ⟨-, e⟩ | ⟨-, -, i, -, e⟩ | ⟨-, -, -, e⟩ | ⟨-, -, hfetch, -⟩ | ⟨-, -, -, e⟩ |
    ⟨-, -, r, -, -, e⟩
  case inr.inl =>
    obtain ⟨t, ht, -⟩ := exec_shape i s
    exact ⟨t, e.trans ht⟩
  case inr.inr.inr.inl => exact absurd hfetch (decode_ne_operandTooLong hfits)
  all_goals exact ⟨_, e⟩

/-- Settles O55: an operation has a shape in every state, and only a string too long for its buffer is refused. -/
theorem nothingStopsTheMachine : Obligations.NothingStopsTheMachine := by
  unfold Obligations.NothingStopsTheMachine
  constructor
  case left =>
    intro i s
    obtain ⟨t, ht, -⟩ := exec_shape i s
    exact ⟨t, ht⟩
  case right =>
    intro s hs
    obtain ⟨-, -, -, -, -, -, hbuffer⟩ := hs
    cases hturn : s.nextTurn with
    | host => exact step_host s hturn ▸ hostTurn_answers (turned_bufferInv hbuffer)
    | poller => exact ⟨_, step_poller s hturn⟩
    | setConnected b => exact ⟨_, step_setConnected s b hturn⟩

end Sys2Proof.Machine
end

section
/-! Two kinds of independence. R72: a lock-free operation of the host and tick-end write different registers, so they
commute. R29: the poller's port and the sink are never read, so states that differ there alone step alike. -/

namespace Sys2Proof.Machine

/-! ### The branches of a turn -/

section
variable {s : State}

theorem hostTurn_of_awaits (h : s.hostAwaits = true) : hostTurn s = .next (sendFinish .host s).1 := by
  simp [hostTurn, h]

theorem hostTurn_of_fetch_ok {i : Instr} (h : s.hostAwaits = false) (hp : s.hostPending = true)
    (hf : s.fetch = .ok i) : hostTurn s = exec i s := by
  simp [hostTurn, h, hp, hf]

theorem hostTurn_of_illegalOp (h : s.hostAwaits = false) (hp : s.hostPending = true)
    (hf : s.fetch = .error .illegalOp) : hostTurn s = .next (s.raise .host .illegalOp) := by
  simp [hostTurn, h, hp, hf]

theorem hostTurn_of_operandTooLong (h : s.hostAwaits = false) (hp : s.hostPending = true)
    (hf : s.fetch = .error .operandTooLong) : hostTurn s = .refused .operandTooLong := by
  simp [hostTurn, h, hp, hf]

theorem hostTurn_of_nothing (h : s.hostAwaits = false) (hp : s.hostPending = false) (hq : s.inp.hostOps = []) :
    hostTurn s = .next s := by
  simp [hostTurn, h, hp, hq]

theorem hostTurn_of_presents {r : OperandRegs} {rest : List OperandRegs} (h : s.hostAwaits = false)
    (hp : s.hostPending = false) (hq : s.inp.hostOps = r :: rest) :
    hostTurn s = .next (s.popHostOp.present r) := by
  simp [hostTurn, h, hp, hq]

theorem pollerTurn_of_awaits (hl : s.lock = .poller) (hx : s.xph = .awaitReply) : pollerTurn s = tickEnd s := by
  simp [pollerTurn, State.pollerAwaits, hl, hx]

theorem pollerTurn_of_enabled (hr : s.pollRun = .running) (hl : s.lock = .free) : pollerTurn s = tickBegin s := by
  simp [pollerTurn, State.pollerAwaits, State.tickEnabled, hr, hl]

theorem pollerTurn_of_idle (ha : s.pollerAwaits = false) (ht : s.tickEnabled = false) : pollerTurn s = s := by
  simp [pollerTurn, ha, ht]

end

/-! ### Lock-free operations and tick-end -/

/-- What a lock-free operation of the host does: it completes with the results `r`, and `POLL_RUN` is `run`. -/
def State.hostEffect (r : Results) (run : PollRun) (s : State) : State := { s.hostDone r with pollRun := run }

/-- R68, R240, R241: its results depend on the parameters alone, `POLL_RUN` on `POLL_RUN` alone. -/
theorem exec_lockFree {i : Instr} (h : isPure i = true ∨ i = .pollStart ∨ i = .pollStop) :
    ∃ (r : Params → Results) (run : PollRun → PollRun),
      ∀ s, exec i s = .next (s.hostEffect (r s.par) (run s.pollRun)) := by
  rcases h with hpure | rfl | rfl
  · exact ⟨fun p => Results.ofAnswer (pureAnswer p i), id, exec_of_isPure hpure⟩
  · exact ⟨fun _ => Results.success, fun _ => .running, exec_pollStart⟩
  · exact ⟨fun _ => Results.success, fun _ => .stopped, exec_pollStop⟩

theorem tickEnd_hostEffect (r : Results) (run : PollRun) (s : State) :
    tickEnd (s.hostEffect r run) = (tickEnd s).hostEffect r run := by
  cases hreply : replyOf s.par.status s.nextRead (receivedBytes s.nextRead) with
  | error e =>
    rw [tickEnd_of_error hreply, tickEnd_of_error (s := s.hostEffect r run) hreply]
    rfl
  | ok resp =>
    rw [tickEnd_of_ok hreply, tickEnd_of_ok (s := s.hostEffect r run) hreply]
    rfl

theorem tickEnd_par (s : State) : (tickEnd s).par = s.par := by
  simp [tickEnd, sendFinish_keeps]

/-- R243: the poller's turn while its own exchange awaits the reply. -/
theorem runTurn_of_poller_awaits {s : State} (hlock : s.lock = .poller) (hxph : s.xph = .awaitReply) :
    runTurn .poller s = .next (tickEnd s) := by
  rw [runTurn, pollerTurn_of_awaits hlock hxph]

/-- Settles O58: tick-end leaves what the operation reads, and the two write different registers. -/
theorem tickEndCommutesWithLockFreeOperations : Obligations.TickEndCommutesWithLockFreeOperations := by
  unfold Obligations.TickEndCommutesWithLockFreeOperations
  intro i s t u hi hlock hxph ht hu
  obtain ⟨r, run, heffect⟩ := exec_lockFree hi
  obtain rfl := Host.Outcome.next.inj (ht.symm.trans (heffect s))
  obtain rfl := Host.Outcome.next.inj (hu.symm.trans (runTurn_of_poller_awaits hlock hxph))
  obtain ⟨-, -, hrun⟩ := tickEnd_keeps s
  refine ⟨(tickEnd s).hostEffect (r s.par) (run s.pollRun), ?_, ?_⟩
  · rw [heffect, tickEnd_par, hrun]
  · rw [← tickEnd_hostEffect]
    exact runTurn_of_poller_awaits hlock hxph

/-! ### States that differ in the poller's port and the sink alone -/

/-- `s` with another poller's port and another sink. -/
def State.withPoller (p : Port) (k : List SinkRec) (s : State) : State := { s with poller := p, sink := k }

theorem State.SameButPoller.exists_withPoller {s t : State} (h : s.SameButPoller t) : ∃ p k, t = s.withPoller p k :=
  ⟨t.poller, t.sink, h⟩

/-- The outcomes of two such states: next states that differ there alone, or the same refusal. -/
def SameOutcome (o o' : Host.Outcome State Fault Refusal) : Prop :=
  (∀ s', o = .next s' → ∃ t', o' = .next t' ∧ s'.SameButPoller t') ∧ ∀ r, o = .refused r → o' = .refused r

theorem SameOutcome.next {s t : State} (h : s.SameButPoller t) : SameOutcome (.next s) (.next t) := by
  constructor
  · intro s' hs
    obtain rfl := Host.Outcome.next.inj hs
    exact ⟨t, rfl, h⟩
  · exact nofun

theorem SameOutcome.refused (r : Refusal) : SameOutcome (.refused r) (.refused r) := by
  constructor
  · intro s' hs
    cases hs
  · exact fun _ h => h

section
variable (p : Port) (k : List SinkRec) {s : State}

/-- Phase 1 takes the same branch: no test reads the poller's port or the sink. -/
theorem sendStart_withPoller (a : Agent) (cmd : Byte) (data : List Byte) (hlock : s.lock = .free) :
    (sendStart a cmd data s).1.SameButPoller (sendStart a cmd data (s.withPoller p k)).1 := by
  cases hconn : s.connected with
  | false =>
    rw [sendStart_of_not_connected hlock hconn, sendStart_of_not_connected (s := s.withPoller p k) hlock hconn]
    cases a <;> rfl
  | true =>
    by_cases hlen : data.length ≤ 254
    case neg =>
      have hlen := Nat.lt_of_not_le hlen
      rw [sendStart_of_too_large hlock hconn hlen, sendStart_of_too_large (s := s.withPoller p k) hlock hconn hlen]
      cases a <;> rfl
    case pos =>
      cases hwrite : s.nextWrite (commandWire (s.bitFor cmd) s.cfg.addr cmd data) with
      | wErr =>
        rw [sendStart_of_wErr hlock hconn hlen hwrite,
          sendStart_of_wErr (s := s.withPoller p k) hlock hconn hlen hwrite]
        cases a <;> rfl
      | wOk n =>
        rw [sendStart_of_wOk hconn hlen hwrite, sendStart_of_wOk (s := s.withPoller p k) hconn hlen hwrite]
        cases a <;> rfl

theorem sendFinish_withPoller (a : Agent) :
    (sendFinish a s).1.SameButPoller (sendFinish a (s.withPoller p k)).1 := by
  cases hreply : replyOf s.par.status s.nextRead (receivedBytes s.nextRead) with
  | error e =>
    rw [sendFinish_of_error hreply, sendFinish_of_error (s := s.withPoller p k) hreply]
    cases a <;> rfl
  | ok r =>
    rw [sendFinish_of_ok hreply, sendFinish_of_ok (s := s.withPoller p k) hreply]
    cases a <;> rfl

/-- Publishing writes the sink alone (R248). -/
theorem publish_sameButPoller {s t : State} (h : s.SameButPoller t) (recs recs' : List SinkRec) :
    (s.publish recs).SameButPoller (t.publish recs') := by
  obtain ⟨p, k, rfl⟩ := h.exists_withPoller
  rfl

theorem tickBegin_withPoller (hlock : s.lock = .free) :
    (tickBegin s).SameButPoller (tickBegin (s.withPoller p k)) := by
  have hpolling : (s.withPoller p k).polling = s.polling.withPoller { p with opnd := pollOpnd s.par } k := rfl
  rw [tickBegin_eq, tickBegin_eq, hpolling]
  exact publish_sameButPoller (sendStart_withPoller _ _ .poller s.par.pollCmd [] (s := s.polling) hlock) _ _

theorem tickEnd_withPoller : (tickEnd s).SameButPoller (tickEnd (s.withPoller p k)) :=
  publish_sameButPoller (sendFinish_withPoller p k .poller) _ _

theorem pollerTurn_withPoller : (pollerTurn s).SameButPoller (pollerTurn (s.withPoller p k)) := by
  rcases pollerTurn_cases s with ⟨hlock, hxph, e⟩ | ⟨hrun, hlock, e⟩ | ⟨hawaits, henabled, e⟩ <;> rw [e]
  · rw [pollerTurn_of_awaits (s := s.withPoller p k) hlock hxph]
    exact tickEnd_withPoller p k
  · rw [pollerTurn_of_enabled (s := s.withPoller p k) hrun hlock]
    exact tickBegin_withPoller p k hlock
  · rw [pollerTurn_of_idle (s := s.withPoller p k) hawaits henabled]
    rfl

/-- An operation that needs the lock holds in both states, or runs in both. -/
theorem SameOutcome.of_lock_test {i : Instr} {f : State → State}
    (hheld : ∀ u : State, u.lock ≠ .free → exec i u = .next u)
    (hfree : ∀ u : State, u.lock = .free → exec i u = .next (f u))
    (hf : s.lock = .free → (f s).SameButPoller (f (s.withPoller p k))) :
    SameOutcome (exec i s) (exec i (s.withPoller p k)) := by
  by_cases hlock : s.lock = .free
  case pos =>
    rw [hfree s hlock, hfree (s.withPoller p k) hlock]
    exact .next (hf hlock)
  case neg =>
    rw [hheld s hlock, hheld (s.withPoller p k) hlock]
    exact .next rfl

theorem exec_withPoller (i : Instr) : SameOutcome (exec i s) (exec i (s.withPoller p k)) := by
  by_cases hpure : isPure i = true
  case pos =>
    rw [exec_of_isPure hpure, exec_of_isPure hpure]
    exact .next rfl
  case neg =>
    cases i with
    | seqNext =>
      exact .of_lock_test p k (fun _ => exec_seqNext_of_lock_ne_free) (fun _ => exec_seqNext_of_lock_free) fun _ => rfl
    | seqReset =>
      exact .of_lock_test p k (fun _ => exec_seqReset_of_lock_ne_free) (fun _ => exec_seqReset_of_lock_free)
        fun _ => rfl
    | send cmd data =>
      exact .of_lock_test p k (fun _ h => if_neg h) (fun _ h => exec_send_of_lock_free h cmd data)
        (sendStart_withPoller p k .host cmd data)
    | sync data =>
      exact .of_lock_test p k (fun _ h => if_neg h) (fun _ h => exec_sync_of_lock_free h data)
        (sendStart_withPoller p k .host s.par.syncCmd data)
    | pollStart | pollStop => exact .next rfl
    | crc16 | encode | decode | decIdent | decChan | decSetup => exact absurd rfl hpure

theorem hostTurn_withPoller : SameOutcome (hostTurn s) (hostTurn (s.withPoller p k)) := by
  rcases hostTurn_cases s with ⟨ha, e⟩ | ⟨ha, hp, i, hf, e⟩ | ⟨ha, hp, hf, e⟩ | ⟨ha, hp, hf, e⟩ | ⟨ha, hp, hq, e⟩ |
    ⟨ha, hp, r, rest, hq, e⟩ <;> rw [e]
  · rw [hostTurn_of_awaits (s := s.withPoller p k) ha]
    exact .next (sendFinish_withPoller p k .host)
  · rw [hostTurn_of_fetch_ok (s := s.withPoller p k) ha hp hf]
    exact exec_withPoller p k i
  · rw [hostTurn_of_illegalOp (s := s.withPoller p k) ha hp hf]
    exact .next rfl
  · rw [hostTurn_of_operandTooLong (s := s.withPoller p k) ha hp hf]
    exact .refused _
  · rw [hostTurn_of_nothing (s := s.withPoller p k) ha hp hq]
    exact .next rfl
  · rw [hostTurn_of_presents (s := s.withPoller p k) ha hp hq]
    exact .next rfl

theorem step_withPoller : SameOutcome (step s) (step (s.withPoller p k)) := by
  have hturned : (s.withPoller p k).turned = s.turned.withPoller p k := rfl
  cases hturn : s.nextTurn with
  | host =>
    rw [step_host s hturn, step_host (s.withPoller p k) hturn, hturned]
    exact hostTurn_withPoller p k
  | poller =>
    rw [step_poller s hturn, step_poller (s.withPoller p k) hturn, hturned]
    exact .next (pollerTurn_withPoller p k)
  | setConnected b =>
    rw [step_setConnected s b hturn, step_setConnected (s.withPoller p k) b hturn]
    exact .next rfl

end

/-- Settles O56: no turn, test or answer reads the poller's port or the sink. -/
theorem hostCannotSeePollerPort : Obligations.HostCannotSeePollerPort := by
  unfold Obligations.HostCannotSeePollerPort
  intro s t h
  obtain ⟨p, k, rfl⟩ := h.exists_withPoller
  exact step_withPoller p k

end Sys2Proof.Machine
end
